-- ==== Sys2Proof/Word.lean ====
section
/-! DEFINITION. The plain value types of the block: bytes, logical keys, host line vectors, one-bit colours. -/

namespace Sys2Proof

/-- One byte of a RomImage (spec 20_memory.md R53) or one 8-bit word of the core command port (R85). -/
abbrev Byte := BitVec 8

/-- A LogicalKey, an integer in 0x0 to 0xF (R82). -/
abbrev Key := BitVec 4

/-- A set of host key lines in format HK (R80): bit `j` is 1 while line `j` is pressed.
The width `NHK` is a parameter of the block (R5), so the vector is held as the natural number its bits write;
every operation that produces one keeps it below `2 ^ NHK`. -/
abbrev Lines := Nat

/-- The one-bit colour codes of the surface (R28): code 0 is `BG`, code 1 is `FG`. -/
inductive Colour where
  | bg
  | fg
  deriving DecidableEq, Repr, Inhabited

end Sys2Proof
end

