-- ==== Sys2Proof/Syntax.lean ====
section
/-! DEFINITION. The instructions: one constructor for every row of spec/opcode_table.json. -/

namespace Sys2Proof

/-- The rows of spec/opcode_table.json (R90): twelve `PHASE` operations (format PH), the five core commands
(format CC), the three draw commands (format DC) and the keymap function (format FN). -/
inductive Instr where
  /-- OFF, `PHASE` 0x0 (R217): terminal after a boot abort. -/
  | off
  /-- BOOT, `PHASE` 0x1 (R180). -/
  | boot
  /-- SAMPLE, `PHASE` 0x2 (R120). -/
  | sample
  /-- PRESS, `PHASE` 0x3 (R121). -/
  | press
  /-- RELEASE, `PHASE` 0x4 (R122). -/
  | release
  /-- STEP, `PHASE` 0x5 (R138). -/
  | step
  /-- TICK, `PHASE` 0x6 (R139). -/
  | tick
  /-- RCLEAR, `PHASE` 0x7 (R161). -/
  | rclear
  /-- RSCAN, `PHASE` 0x8 (R162). -/
  | rscan
  /-- PRESENT, `PHASE` 0x9 (R164). -/
  | present
  /-- SYNC, `PHASE` 0xA (R141). -/
  | sync
  /-- HALT, `PHASE` 0xF (R218): terminal after a core fault. -/
  | halt
  /-- `load(bytes)`, CC word 0x20 and its transaction (R86, R191). -/
  | coreLoad (bytes : List Byte)
  /-- `step()`, CC word 0x40 (R192). -/
  | coreStep
  /-- `tick_timers()`, CC word 0x60 (R193). -/
  | coreTickTimers
  /-- `key_event(key, pressed)`, CC words 0x80 to 0x9F (R194). -/
  | coreKeyEvent (pressed : Bool) (key : Key)
  /-- `read_display()`, CC word 0xA0 (R195). -/
  | coreReadDisplay
  /-- `clear(c)`, DC op 0b00 (R87, R163). -/
  | drawClear (c : Colour)
  /-- `fill(x, y, side, c)`, DC op 0b01 (R87, R163). -/
  | drawFill (x y side : Nat) (c : Colour)
  /-- `present()`, DC op 0b10 (R87, R164). -/
  | drawPresent
  /-- The keymap function `KM(v)` (R110); no code selects it (R90). -/
  | kmap (v : Lines)
  deriving DecidableEq, Repr

end Sys2Proof
end

