-- ==== Sys2Proof/Machine/Types.lean ====
section
/-! DEFINITION. The named values that cross the block's boundaries: phases, causes, core commands, draw commands,
host inputs, trace events, instruction formats and the reasons a word is no instruction. -/

namespace Sys2Proof.Machine

/-- The twelve values of `PHASE` (R21, R81). The reserved codes 0xB to 0xE cannot be written down, as R91 asks. -/
inductive Phase where
  | off | boot | sample | press | release | step | tick | rclear | rscan | present | sync | halt
  deriving DecidableEq, Repr

/-- The eight values of `CAUSE` (R26, R210). -/
inductive Cause where
  /-- 0: the block is in BOOT or running. -/
  | none
  /-- 1: BootAbort(usage). -/
  | usage
  /-- 2: BootAbort(rom_unreadable). -/
  | romUnreadable
  /-- 3: CoreFault(load). -/
  | load
  /-- 4: CoreFault(step). -/
  | step
  /-- 5: CoreFault(tick_timers). -/
  | tickTimers
  /-- 6: CoreFault(key_event). -/
  | keyEvent
  /-- 7: CoreFault(read_display). -/
  | readDisplay
  deriving DecidableEq, Repr

/-- The five commands of the core command port (R85, R191 to R195). -/
inductive CoreCmd where
  | load (bytes : List Byte)
  | step
  | tickTimers
  | keyEvent (key : Key) (pressed : Bool)
  | readDisplay
  deriving DecidableEq, Repr

/-- The three commands of the draw port (R87, R199). -/
inductive DrawCmd where
  | clear (c : Colour)
  | fill (x y side : Nat) (c : Colour)
  | present
  deriving DecidableEq, Repr

/-- The reason bit of `boot_abort` (R88): 0 a wrong argument count, 1 an unreadable ROM. -/
inductive AbortReason where
  | usage
  | romUnreadable
  deriving DecidableEq, Repr

/-- The boot input, format BI (R88, R181). -/
inductive BootInput where
  | go (rom : List Byte)
  | abort (reason : AbortReason)
  deriving DecidableEq, Repr

/-- The host's signals as they stand while one step is taken (R201): reset, the key lines, the boot input if one is
presented now, and whether `vsync` is raised now. Loss of power (R8, R243) is no signal here: the model has no unpowered
step, and a run that loses power is a run that is not continued (DESIGN CHOICE, log entry 17). -/
structure HostInput where
  rst : Bool
  keys : Lines
  boot : Option BootInput
  vsync : Bool
  deriving DecidableEq, Repr, Inhabited

/-- The alphabet of the trace (R9). -/
inductive Event where
  /-- `boot_go(rom)`, consumed by BOOT. -/
  | bootGo (rom : List Byte)
  /-- `boot_abort(reason)`, consumed by BOOT. -/
  | bootAbort (reason : AbortReason)
  /-- `sample(v)`, the vector SAMPLE read. -/
  | sample (v : Lines)
  /-- A command delivered to the core. -/
  | core (c : CoreCmd)
  /-- A command delivered to the draw port. -/
  | draw (d : DrawCmd)
  /-- `vsync`, consumed by SYNC. -/
  | vsync
  /-- `fault(cause)`, the core's fault bit on the command before it. -/
  | fault (cause : Cause)
  deriving DecidableEq, Repr

/-- The formats of spec/opcode_table.json (R90): PH, CC, DC, and FN, which has no code. -/
inductive Format where
  | ph | cc | dc | fn
  deriving DecidableEq, Repr

/-- Why a word is no instruction (R91, R92). -/
inductive Reject where
  /-- A `PHASE` code 0xB to 0xE (R91). -/
  | reservedPhase
  /-- A CC op 0b000, 0b110 or 0b111 (R92). -/
  | reservedCoreOp
  /-- Non-zero bits 4:0 in a CC word other than `key_event` (R92). -/
  | nonzeroPayload
  /-- The DC op 0b11 (R92). -/
  | reservedDrawOp
  /-- A field the DC word's op has no use for is not 0 (R87). -/
  | nonzeroDrawField
  /-- Bits above the width of the word or of the load transaction (R81, R85, R86, R87). -/
  | tooWide
  /-- Format FN: the keymap function has no code (R90). -/
  | noCode
  /-- A `PHASE` code that does not stand in `PHASE`: an operation is enabled only when its `PHASE` is current (R21,
  R221). -/
  | outOfPhase
  deriving DecidableEq, Repr

end Sys2Proof.Machine
end

