-- ==== Sys2Proof/Config.lean ====
section
/-! DEFINITION. The configuration record of the block (R5), and the free values: what the spec leaves to the host,
to the core and to the surface's contents at reset. A free value has no body, so nothing can be proved of what it is. -/

namespace Sys2Proof

/-- One entry of the `KEYMAP` table (R30, R83): the host line it tests and the logical key it yields. -/
structure KeyEntry where
  hline : Nat
  lkey : Key
  deriving DecidableEq, Repr

/-- The configuration record of R5 (R29): fixed before reset is released and never written.
`romMax` and `loadOffset` are the two core-owned parameters of R63; the block itself reads neither. -/
structure Config where
  /-- `W`, the display grid's width in cells. -/
  width : Nat
  /-- `H`, the display grid's height in cells. -/
  height : Nat
  /-- `SCALE`, the side of the square painted per set cell. -/
  scale : Nat
  /-- `FRAME_BUDGET`, the CPU steps per displayed frame. -/
  frameBudget : Nat
  /-- `BG`, a colour value of the display's own. -/
  bgColour : Nat
  /-- `FG`, a colour value of the display's own. -/
  fgColour : Nat
  /-- `NHK`, the number of host key lines. -/
  nhk : Nat
  /-- `KEYMAP`, position 0 first in priority. -/
  keymap : List KeyEntry
  /-- `LENW`, the width of a load transaction's length field. -/
  lenw : Nat
  /-- `ROM_MAX`, the core's: the length above which an image is oversized (R63). -/
  romMax : Nat
  /-- `LOAD_OFFSET`, the core's: where it puts byte 0 of the image (R54, R63). -/
  loadOffset : Nat
  deriving DecidableEq, Repr

/-- FREE VALUE (log entry 2): the host's signals at a step the schedule does not fix (R201, R202; U9, U11 of
93_implementation_defined.md). Applied to the host port's counter, so every step draws a fresh one. -/
opaque Config.hostInput : Nat → Machine.HostInput

/-- FREE VALUE (log entry 3): the state an opaque core goes to on a command (R190; U4). A core state is a number:
every countable state type can be numbered. -/
opaque Config.coreNext : Machine.CoreCmd → Nat → Nat

/-- FREE VALUE (log entry 3): the `core_fault` bit an opaque core answers a command with (R190; U4). -/
opaque Config.coreFault : Machine.CoreCmd → Nat → Bool

/-- FREE VALUE (log entry 3): whether an opaque core in this state ever completes this command (U12). -/
opaque Config.coreCompletes : Machine.CoreCmd → Nat → Bool

/-- FREE VALUE (log entry 3): the bit of an opaque core's PixelBuffer at an index (R51). -/
opaque Config.corePixel : Nat → Nat → Bool

/-- FREE VALUE (log entry 4): the colour at a surface address that nothing has written since a reset (R36; U8). The
first argument tells one reset's contents from another's. -/
opaque Config.surfaceAtReset : Nat → Nat → Colour

end Sys2Proof
end

