-- ==== Sys2Proof/Machine/Operands.lean ====
section
/-! DEFINITION. The operands the block computes: field widths, surface geometry, the default parameters, host line
vectors and their transitions, the keymap function, rectangle corners. -/

namespace Sys2Proof

/-- `clog2(n)` of 00_scope.md section 5: the least `k` with `n ≤ 2 ^ k`. -/
def clog2 (n : Nat) : Nat := if n ≤ 1 then 0 else Nat.log2 (n - 1) + 1

/-- A field width: "widths of 0 are taken as 1" (00_scope.md section 5). -/
def fieldWidth (n : Nat) : Nat := max 1 (clog2 n)

/-- The number of PixelBuffer cells, `W*H` (R51). -/
def Config.cells (cfg : Config) : Nat := cfg.width * cfg.height

/-- The surface's columns, `W*SCALE` (R28). -/
def Config.surfW (cfg : Config) : Nat := cfg.width * cfg.scale

/-- The surface's rows, `H*SCALE` (R28). -/
def Config.surfH (cfg : Config) : Nat := cfg.height * cfg.scale

/-- `XW` of R87. -/
def Config.xw (cfg : Config) : Nat := fieldWidth cfg.surfW

/-- `YW` of R87. -/
def Config.yw (cfg : Config) : Nat := fieldWidth cfg.surfH

/-- `SW` of R87. -/
def Config.sw (cfg : Config) : Nat := fieldWidth (cfg.scale + 1)

/-- `HLW` of R83. -/
def Config.hlw (cfg : Config) : Nat := fieldWidth cfg.nhk

/-- The linear address of surface pixel `(X, Y)`: `Y * (W*SCALE) + X` (R52). -/
def Config.pixelAddr (cfg : Config) (x y : Nat) : Nat := y * cfg.surfW + x

/-- The default `KEYMAP` of R6: line `j` at position `j`, in the conventional layout. -/
def Config.defaultKeymap : List KeyEntry :=
  [⟨0, 0x1⟩, ⟨1, 0x2⟩, ⟨2, 0x3⟩, ⟨3, 0xC⟩, ⟨4, 0x4⟩, ⟨5, 0x5⟩, ⟨6, 0x6⟩, ⟨7, 0xD⟩,
   ⟨8, 0x7⟩, ⟨9, 0x8⟩, ⟨10, 0x9⟩, ⟨11, 0xE⟩, ⟨12, 0xA⟩, ⟨13, 0x0⟩, ⟨14, 0xB⟩, ⟨15, 0xF⟩]

/-- The configuration a run from `State.reset` has (log entry 1). `W`, `H`, `NHK`, `KEYMAP` and `LENW` are the defaults
of R5 and R6; `SCALE` and `FRAME_BUDGET`, which have none, are those of the reference geometry of 95_test_vectors.md;
`ROM_MAX` and `LOAD_OFFSET` are the conventional values of R63. -/
def Config.default : Config where
  width := 64
  height := 32
  scale := 10
  frameBudget := 10
  bgColour := 0
  fgColour := 1
  nhk := 16
  keymap := Config.defaultKeymap
  lenw := 16
  romMax := 3584
  loadOffset := 0x200

/-- The `NHK` wires of a host line vector (R80): bits at `NHK` and above are no lines. -/
def Config.lines (cfg : Config) (v : Nat) : Lines := v % 2 ^ cfg.nhk

/-- `cur & ~prev` on `NHK` bits (R120): the lines released in `prev` and pressed in `cur`. -/
def Config.newlyPressed (cfg : Config) (cur prev : Lines) : Lines :=
  (BitVec.ofNat cfg.nhk cur &&& ~~~ BitVec.ofNat cfg.nhk prev).toNat

/-- `~cur & prev` on `NHK` bits (R120): the lines pressed in `prev` and released in `cur`. -/
def Config.newlyReleased (cfg : Config) (cur prev : Lines) : Lines :=
  (~~~ BitVec.ofNat cfg.nhk cur &&& BitVec.ofNat cfg.nhk prev).toNat

/-- The keymap function over a table (R110): the key of the first entry whose line is pressed. -/
def kmOf (table : List KeyEntry) (v : Lines) : Option Key :=
  match table with
  | [] => none
  | e :: rest => if v.testBit e.hline then some e.lkey else kmOf rest v

/-- `KM(v)` of R110, over the block's own table. -/
def Config.km (cfg : Config) (v : Lines) : Option Key := kmOf cfg.keymap v

/-- The column of PixelBuffer cell `i`, `x = i mod W` (R57, R89). -/
def Config.cellX (cfg : Config) (i : Nat) : Nat := i % cfg.width

/-- The row of PixelBuffer cell `i`, `y = i div W` (R57, R89). -/
def Config.cellY (cfg : Config) (i : Nat) : Nat := i / cfg.width

/-- `X = x * SCALE`: the left column of cell `i`'s rectangle (R89). -/
def Config.cornerX (cfg : Config) (i : Nat) : Nat := cfg.cellX i * cfg.scale

/-- `Y = y * SCALE`: the top row of cell `i`'s rectangle (R89). -/
def Config.cornerY (cfg : Config) (i : Nat) : Nat := cfg.cellY i * cfg.scale

/-- The cell that holds surface pixel `(X, Y)`: `(Y div SCALE) * W + (X div SCALE)` (R168). -/
def Config.cellOfPixel (cfg : Config) (x y : Nat) : Nat := y / cfg.scale * cfg.width + x / cfg.scale

/-- The colour code of a PixelBuffer bit (R168): 1 is `FG`, 0 is `BG`. -/
def Colour.ofBit (b : Bool) : Colour := if b then .fg else .bg

/-- The one-bit code of a colour (R28). -/
def Colour.code : Colour → Nat
  | .bg => 0
  | .fg => 1

/-- The colour with this one-bit code. -/
def Colour.ofCode (n : Nat) : Colour := if n = 0 then .bg else .fg

/-- The colour value the display applies to a code (R199). -/
def Config.displayColour (cfg : Config) : Colour → Nat
  | .bg => cfg.bgColour
  | .fg => cfg.fgColour

end Sys2Proof
end

