-- ==== Sys2Proof/WellFormed.lean ====
section
/-! DEFINITION. What a well-formed configuration record is (R93), and what operands an instruction's code can carry. -/

namespace Sys2Proof

/-- The `hline` values of a table are pairwise distinct (R93). -/
def distinctLines : List KeyEntry → Bool
  | [] => true
  | e :: rest => rest.all (fun f => f.hline != e.hline) && distinctLines rest

/-- R93: a configuration record is well formed iff every constraint of R5 holds. A logical key is four bits by its
type, so `lkey ≤ 0xF` needs no check. -/
def Config.wf (cfg : Config) : Bool :=
  decide (1 ≤ cfg.width) && decide (1 ≤ cfg.height) && decide (1 ≤ cfg.scale) &&
  decide (1 ≤ cfg.frameBudget) && decide (16 ≤ cfg.nhk) && decide (cfg.keymap.length = 16) &&
  cfg.keymap.all (fun e => decide (e.hline < cfg.nhk)) && distinctLines cfg.keymap &&
  decide (1 ≤ cfg.lenw)

/-- The operands fit the fields of the instruction's code: the length of a load (R86), the coordinates and side of a
DC word (R87), the `NHK` lines of a key vector (R80). -/
def Instr.wf (cfg : Config) : Instr → Bool
  | .coreLoad bytes => decide (bytes.length < 2 ^ cfg.lenw)
  | .drawFill x y side _ =>
      decide (x < 2 ^ cfg.xw) && decide (y < 2 ^ cfg.yw) && decide (side < 2 ^ cfg.sw)
  | .kmap v => decide (v < 2 ^ cfg.nhk)
  | .off | .boot | .sample | .press | .release | .step | .tick | .rclear | .rscan | .present | .sync | .halt => true
  | .coreStep | .coreTickTimers | .coreKeyEvent _ _ | .coreReadDisplay | .drawClear _ | .drawPresent => true

end Sys2Proof
end

