-- ==== Sys2Proof/Decode.lean ====
section
/-! DEFINITION. The formats of spec/30_encoding.md: the codes of `PHASE`, the core and draw command words, the decoder of
each format and the encoder written from the same tables, and the field formats KE, KT and KO. -/

namespace Sys2Proof

open Machine

/-! ### Codes of `PHASE` and `CAUSE` -/

/-- The 4-bit codes of R81. -/
def Machine.Phase.code : Phase → BitVec 4
  | .off => 0x0
  | .boot => 0x1
  | .sample => 0x2
  | .press => 0x3
  | .release => 0x4
  | .step => 0x5
  | .tick => 0x6
  | .rclear => 0x7
  | .rscan => 0x8
  | .present => 0x9
  | .sync => 0xA
  | .halt => 0xF

/-- The phase a code names (R81); the reserved codes 0xB to 0xE name none (R91). -/
def Machine.Phase.ofCode (w : Nat) : Option Phase :=
  match w with
  | 0x0 => some .off
  | 0x1 => some .boot
  | 0x2 => some .sample
  | 0x3 => some .press
  | 0x4 => some .release
  | 0x5 => some .step
  | 0x6 => some .tick
  | 0x7 => some .rclear
  | 0x8 => some .rscan
  | 0x9 => some .present
  | 0xA => some .sync
  | 0xF => some .halt
  | _ => none

/-- The operation a phase selects (R81: "the code is also the operation's opcode"). -/
def Machine.Phase.instr : Phase → Instr
  | .off => .off
  | .boot => .boot
  | .sample => .sample
  | .press => .press
  | .release => .release
  | .step => .step
  | .tick => .tick
  | .rclear => .rclear
  | .rscan => .rscan
  | .present => .present
  | .sync => .sync
  | .halt => .halt

/-- The 3-bit codes of `CAUSE` (R210). -/
def Machine.Cause.code : Cause → BitVec 3
  | .none => 0
  | .usage => 1
  | .romUnreadable => 2
  | .load => 3
  | .step => 4
  | .tickTimers => 5
  | .keyEvent => 6
  | .readDisplay => 7

/-! ### Field formats -/

/-- Format KE, a KeyEvent `{pressed, key[3:0]}` (R82). -/
def encodeKE (pressed : Bool) (key : Key) : BitVec 5 := BitVec.ofNat 5 (pressed.toNat * 16 + key.toNat)

/-- The KeyEvent a KE word holds; all 32 values are legal (R82). -/
def decodeKE (w : BitVec 5) : Bool × Key := (w.getLsbD 4, BitVec.ofNat 4 w.toNat)

/-- Format KT, a `KEYMAP` entry `{hline, lkey[3:0]}` (R83). -/
def encodeKT (e : KeyEntry) : Nat := e.hline * 16 + e.lkey.toNat

/-- The `KEYMAP` entry a KT word of this configuration holds (R83). -/
def decodeKT (cfg : Config) (w : Nat) : KeyEntry := ⟨w / 16 % 2 ^ cfg.hlw, BitVec.ofNat 4 w⟩

/-- Format KO, the keymap result `{valid, lkey[3:0]}` (R84). -/
def encodeKO : Option Key → BitVec 5
  | none => 0x00
  | some k => BitVec.ofNat 5 (16 + k.toNat)

/-- The keymap result a KO word holds; `valid = 0` with a non-zero key is no code of R84. -/
def decodeKO (w : BitVec 5) : Option (Option Key) :=
  if w.getLsbD 4 then some (some (BitVec.ofNat 4 w.toNat)) else if w = 0 then some none else none

/-! ### Command words -/

/-- The CC word of a core command (R85). -/
def Machine.CoreCmd.word : CoreCmd → BitVec 8
  | .load _ => 0x20
  | .step => 0x40
  | .tickTimers => 0x60
  | .keyEvent key pressed => BitVec.ofNat 8 (0x80 + (0x10 * pressed.toNat + key.toNat))
  | .readDisplay => 0xA0

/-- The words of a core command's transaction, in port order: the CC word, and after a load its length and its bytes,
byte 0 first (R58, R86, R94). -/
def Machine.CoreCmd.words : CoreCmd → List Nat
  | .load bytes => 0x20 :: bytes.length :: bytes.map BitVec.toNat
  | c => [c.word.toNat]

/-- The bits of a row of data bytes, byte 0 least significant. -/
def packBytes : List Byte → Nat
  | [] => 0
  | b :: rest => b.toNat + 256 * packBytes rest

/-- The first `n` data bytes of a number's bits. -/
def takeBytes (n w : Nat) : List Byte :=
  match n with
  | 0 => []
  | n + 1 => BitVec.ofNat 8 w :: takeBytes n (w / 256)

/-- The bits of a core command's whole transaction, the CC word least significant (R85, R86). -/
def Machine.CoreCmd.bits (cfg : Config) : CoreCmd → Nat
  | .load bytes => 0x20 + 256 * (bytes.length + 2 ^ cfg.lenw * packBytes bytes)
  | c => c.word.toNat

/-- The DC word `{op, colour, x, y, side}` from its fields (R87). -/
def drawWord (cfg : Config) (op colour x y side : Nat) : Nat :=
  side + 2 ^ cfg.sw * (y + 2 ^ cfg.yw * (x + 2 ^ cfg.xw * (colour + 2 * op)))

/-- The DC word of a draw command (R87). -/
def Machine.DrawCmd.word (cfg : Config) : DrawCmd → Nat
  | .clear c => drawWord cfg 0 c.code 0 0 0
  | .fill x y side c => drawWord cfg 1 c.code x y side
  | .present => drawWord cfg 2 0 0 0 0

/-! ### Encoder -/

/-- The code of an instruction: its format and its bits; the keymap function has none (R90). -/
def encode (cfg : Config) : Instr → Option (Format × Nat)
  | .off => some (.ph, Phase.off.code.toNat)
  | .boot => some (.ph, Phase.boot.code.toNat)
  | .sample => some (.ph, Phase.sample.code.toNat)
  | .press => some (.ph, Phase.press.code.toNat)
  | .release => some (.ph, Phase.release.code.toNat)
  | .step => some (.ph, Phase.step.code.toNat)
  | .tick => some (.ph, Phase.tick.code.toNat)
  | .rclear => some (.ph, Phase.rclear.code.toNat)
  | .rscan => some (.ph, Phase.rscan.code.toNat)
  | .present => some (.ph, Phase.present.code.toNat)
  | .sync => some (.ph, Phase.sync.code.toNat)
  | .halt => some (.ph, Phase.halt.code.toNat)
  | .coreLoad bytes => some (.cc, (CoreCmd.load bytes).bits cfg)
  | .coreStep => some (.cc, CoreCmd.step.bits cfg)
  | .coreTickTimers => some (.cc, CoreCmd.tickTimers.bits cfg)
  | .coreKeyEvent pressed key => some (.cc, (CoreCmd.keyEvent key pressed).bits cfg)
  | .coreReadDisplay => some (.cc, CoreCmd.readDisplay.bits cfg)
  | .drawClear c => some (.dc, (DrawCmd.clear c).word cfg)
  | .drawFill x y side c => some (.dc, (DrawCmd.fill x y side c).word cfg)
  | .drawPresent => some (.dc, DrawCmd.present.word cfg)
  | .kmap _ => none

/-- The width in bits of a DC word, `3 + XW + YW + SW` (R87). -/
def Config.dcWidth (cfg : Config) : Nat := 3 + cfg.xw + cfg.yw + cfg.sw

/-- The width in bits of an instruction's code (R81, R85, R86, R87). -/
def codeWidth (cfg : Config) : Instr → Nat
  | .coreLoad bytes => 8 + cfg.lenw + 8 * bytes.length
  | .coreStep | .coreTickTimers | .coreKeyEvent _ _ | .coreReadDisplay => 8
  | .drawClear _ | .drawFill _ _ _ _ | .drawPresent => cfg.dcWidth
  | .off | .boot | .sample | .press | .release | .step | .tick | .rclear | .rscan | .present | .sync | .halt => 4
  | .kmap _ => 0

/-! ### Decoder -/

/-- Reads a `PHASE` code (R81, R91). -/
def decodePH (w : Nat) : Except Reject Instr :=
  if 16 ≤ w then .error .tooWide else
  match Phase.ofCode w with
  | some p => .ok p.instr
  | none => .error .reservedPhase

/-- Reads a load transaction, `rest` being the bits above its CC word (R86). -/
def decodeLoad (cfg : Config) (rest : Nat) : Except Reject Instr :=
  let len := rest % 2 ^ cfg.lenw
  let data := rest / 2 ^ cfg.lenw
  if 2 ^ (8 * len) ≤ data then .error .tooWide else .ok (.coreLoad (takeBytes len data))

/-- Reads a CC word without payload words (R85): its op is `op`, its bits 4:0 are `payload`. -/
def decodeCoreOp (op payload : Nat) : Except Reject Instr :=
  match op with
  | 2 => if payload = 0 then .ok .coreStep else .error .nonzeroPayload
  | 3 => if payload = 0 then .ok .coreTickTimers else .error .nonzeroPayload
  | 4 => .ok (.coreKeyEvent (decide (16 ≤ payload)) (BitVec.ofNat 4 payload))
  | 5 => if payload = 0 then .ok .coreReadDisplay else .error .nonzeroPayload
  | _ => .error .reservedCoreOp

/-- Reads a core command's transaction (R85, R86, R92). -/
def decodeCC (cfg : Config) (w : Nat) : Except Reject Instr :=
  let op := w % 256 / 32
  let payload := w % 32
  if op = 1 then
    if payload = 0 then decodeLoad cfg (w / 256) else .error .nonzeroPayload
  else if 256 ≤ w then .error .tooWide
  else decodeCoreOp op payload

/-- Reads a DC word's fields once they are pulled apart (R87, R92). -/
def decodeDrawOp (op colour x y side : Nat) : Except Reject Instr :=
  match op with
  | 0 => if x = 0 ∧ y = 0 ∧ side = 0 then .ok (.drawClear (Colour.ofCode colour)) else .error .nonzeroDrawField
  | 1 => .ok (.drawFill x y side (Colour.ofCode colour))
  | 2 => if colour = 0 ∧ x = 0 ∧ y = 0 ∧ side = 0 then .ok .drawPresent else .error .nonzeroDrawField
  | 3 => .error .reservedDrawOp
  | _ => .error .tooWide

/-- Reads a DC word (R87): `side` in the low `SW` bits, then `y`, `x`, `colour` and `op`. -/
def decodeDC (cfg : Config) (w : Nat) : Except Reject Instr :=
  let side := w % 2 ^ cfg.sw
  let w1 := w / 2 ^ cfg.sw
  let y := w1 % 2 ^ cfg.yw
  let w2 := w1 / 2 ^ cfg.yw
  let x := w2 % 2 ^ cfg.xw
  let w3 := w2 / 2 ^ cfg.xw
  decodeDrawOp (w3 / 2) (w3 % 2) x y side

/-- The decoder: total on the bits of any format, rejecting by name. -/
def decode (cfg : Config) (f : Format) (w : Nat) : Except Reject Instr :=
  match f with
  | .ph => decodePH w
  | .cc => decodeCC cfg w
  | .dc => decodeDC cfg w
  | .fn => .error .noCode

/-- The format of a table word (log entry 6): a word of at most eight bits is a `PHASE` code when it is below 16 and a
CC word otherwise (no CC word is below 0x20, R85); a wider one is a DC word. -/
def tableFormat (nbits w : Nat) : Format :=
  if nbits ≤ 8 then if w < 16 then .ph else .cc else .dc

/-- The instruction the decoder reads from a word of spec/opcode_table.json, under the default configuration, whose DC
word is the 26-bit word of R87's reference geometry. -/
def decodeTableWord (nbits w : Nat) : Option Instr :=
  match decode Config.default (tableFormat nbits (w % 2 ^ nbits)) (w % 2 ^ nbits) with
  | .ok i => some i
  | .error _ => none

end Sys2Proof
end

