-- ==== Sys2Proof/Machine/State.lean ====
section
/-! DEFINITION. The machine's state as plain data, the reasons a step can stop, and the state after reset. -/

namespace Sys2Proof.Machine

/-- What a surface address that is not listed reads as (R28, R36, U8): after a reset an unspecified colour, the free
value with that number; after a `clear(c)` the colour `c`. -/
inductive Background where
  | unspecified (n : Nat)
  | painted (c : Colour)
  deriving DecidableEq, Repr

/-- `SURF`, the one memory the block owns (R28, R50, R52): the background every unlisted address reads as, and the
written cells by linear address, strictly rising, none equal to a painted background. -/
structure Memory where
  background : Background
  cells : List (Nat × Colour)
  deriving DecidableEq, Repr

/-- The reference fake core of R198, which has the last three fields `none`. They vary it (log entry 3): the one-pixel
core of 95_test_vectors.md P6 (`firstStepSets`), a core that faults on a command (the "core faults" rows of
95_test_vectors.md), a core that never completes one (U12). -/
structure FakeCore where
  /-- The loaded bytes; `none` is "fresh". -/
  mem : Option (List Byte)
  steps : Nat
  ticks : Nat
  /-- `KEYS`, the key-state table: bit `k` is logical key `k` (R55). -/
  keys : BitVec 16
  /-- The PixelBuffer, index 0 first (R51). -/
  display : List Bool
  /-- What `display` is when the core is fresh. -/
  freshDisplay : List Bool
  /-- The ordinal of the `step()` that faults. -/
  faultAt : Option Nat
  /-- The cell the first `step()` sets (P6). -/
  firstStepSets : Option Nat
  /-- A command it answers with its fault bit set. -/
  faultOn : Option CoreCmd
  /-- A command it never completes. -/
  hangsOn : Option CoreCmd
  deriving DecidableEq, Repr

/-- The CPU core, an opaque collaborator (R190): either a core of which nothing is known but R196 and the treatment of
`load` (a numbered state whose transitions are the free values of Config), or the reference fake core of R198. -/
inductive Core where
  | opaqueCore (state : Nat) (loaded : Bool)
  | fake (f : FakeCore)
  deriving DecidableEq, Repr

/-- The host port (R201): the signals at the step being taken, those already scheduled for the steps after it, and the
number of the next free draw, used where the schedule has ended (R202, U9, U11). -/
structure HostPort where
  now : HostInput
  later : List HostInput
  draws : Nat
  deriving DecidableEq, Repr

/-- The whole state. `phase` to `surf` are the eight items of R20. `cfg` is the configuration record (R5, R29), which no
step changes. `core`, `host` and `shown` are the block's partners. `trace` is the ghost history of R9. `inFlight` is a
core command that was issued and has not completed (U12). `cmdIn` and `kmOut` are the model's own observation points
(log entries 7 and 8). -/
structure State where
  cfg : Config
  phase : Phase
  /-- `PREV`. -/
  prev : Lines
  /-- `DOWN`. -/
  down : Lines
  /-- `UP`. -/
  up : Lines
  /-- `STEPCNT`. -/
  stepcnt : Nat
  /-- `IDX`. -/
  idx : Nat
  cause : Cause
  surf : Memory
  core : Core
  host : HostPort
  /-- What the display shows: the surface as it stood at the last `present()` (R164), unspecified before the first one
  (R36, R246). -/
  shown : Memory
  trace : List Event
  inFlight : Option CoreCmd
  cmdIn : Option (Format × Nat)
  kmOut : BitVec 5
  deriving DecidableEq, Repr

/-- Why a step stops with a fault. Each is an access the spec says is never issued; stopping is safe. -/
inductive Fault where
  /-- Raised by RSCAN when `IDX` is not below `W*H`: the PixelBuffer has no such cell (R51, R162). Safe: no run from
  reset reaches it, and the spec gives the read no effect. -/
  | pixelBufferIndex
  /-- Raised by STEP when `STEPCNT` is not below `FRAME_BUDGET`: its new value would not fit the register (R24, R138).
  Safe: no run from reset reaches it, and the spec gives the operation no effect there. -/
  | stepCounterRange
  /-- Raised by the draw command `fill` when its rectangle leaves the surface: there is no such pixel (R50, R52). Safe:
  the block never issues one (R167). -/
  | surfaceRange
  deriving DecidableEq, Repr

/-- Why a step has no meaning. Each is a case the spec itself refuses; stopping is safe. -/
inductive Refusal where
  /-- Raised by exec for an instruction that has no meaning yet. Safe. No arm raises it. -/
  | notModelled (mnemonic : String)
  /-- Raised by the fetch when the configuration record breaks R93. Safe: the block is not defined for it. -/
  | illFormedConfig
  /-- Raised by the fetch, and by RSCAN, when the core's display has not `W*H` cells (R195, U5). Safe: the spec refuses
  the pairing. -/
  | displayMismatch
  /-- Raised by BOOT and by the command `load` when the image has `2 ^ LENW` bytes or more: it cannot be expressed
  (R86). Safe: the host must not present one (R202). -/
  | imageTooLong
  /-- Raised by BOOT and by the command `load` when the core has been sent a `load` since it was fresh (U1). Safe: the
  spec gives a second `load` no meaning. -/
  | loadTwice
  /-- Raised by the fetch when the word at the command inlet is no instruction (R91, R92, U7) or is a `PHASE` code, which
  only `PHASE` itself can select (R21, R221). Safe: the spec refuses reserved codes, and nothing places such a code. -/
  | reservedEncoding (why : Reject)
  deriving DecidableEq, Repr

/-- An opaque core that is fresh: state number 0 (R241). -/
def Core.freshOpaque : Core := .opaqueCore 0 false

/-- No host signal is raised and no key is pressed. -/
def HostInput.quiet : HostInput := ⟨false, 0, none, false⟩

/-- The state right after reset for a configuration (R36, R240): every register at the value the table of R36 gives it,
`SURF` unspecified, a fresh core, the trace empty. The host's first signals are quiet (log entry 5). -/
def State.resetOf (cfg : Config) : State where
  cfg := cfg
  phase := .boot
  prev := 0
  down := 0
  up := 0
  stepcnt := 0
  idx := 0
  cause := .none
  surf := ⟨.unspecified 0, []⟩
  core := Core.freshOpaque
  host := ⟨HostInput.quiet, [], 1⟩
  shown := ⟨.unspecified 1, []⟩
  trace := []
  inFlight := none
  cmdIn := none
  kmOut := 0

/-- The machine right after reset, with the default configuration of log entry 1. -/
def State.reset : State := State.resetOf Config.default

end Sys2Proof.Machine
end

