-- ==== Sys2Proof/Machine/Ops.lean ====
section
/-! DEFINITION. The named operations over the state: the surface, the core command port and the core behind it, the draw
port, entering OFF and HALT, reset, the host port, and fetching the next operation. -/

namespace Sys2Proof.Machine

/-! ### Register and port updates -/

/-- `PHASE <- p`. -/
def State.goto (s : State) (p : Phase) : State := { s with phase := p }

/-- SAMPLE's three writes: `DOWN`, `UP` and `PREV` (R120). -/
def State.setLines (s : State) (down up prev : Lines) : State := { s with down := down, up := up, prev := prev }

/-- `STEPCNT <- n`. -/
def State.setStepcnt (s : State) (n : Nat) : State := { s with stepcnt := n }

/-- `IDX <- n`. -/
def State.setIdx (s : State) (n : Nat) : State := { s with idx := n }

/-- `CAUSE <- c`. -/
def State.setCause (s : State) (c : Cause) : State := { s with cause := c }

/-- The surface after a draw command. -/
def State.setSurf (s : State) (m : Memory) : State := { s with surf := m }

/-- What the display takes at a `present()`. -/
def State.setShown (s : State) (m : Memory) : State := { s with shown := m }

/-- The core after a command. -/
def State.setCore (s : State) (k : Core) : State := { s with core := k }

/-- Appends an event to the trace (R9). -/
def State.log (s : State) (e : Event) : State := { s with trace := s.trace ++ [e] }

/-- Records a command that has not completed (U12). -/
def State.setInFlight (s : State) (c : Option CoreCmd) : State := { s with inFlight := c }

/-- Sets the model's command inlet (log entry 7). -/
def State.setCmdIn (s : State) (w : Option (Format × Nat)) : State := { s with cmdIn := w }

/-- Sets the model's record of the keymap result (log entry 8). -/
def State.setKmOut (s : State) (w : BitVec 5) : State := { s with kmOut := w }

/-- Sets the host port. -/
def State.setHost (s : State) (h : HostPort) : State := { s with host := h }

/-! ### Status outputs (R31, R201) -/

/-- `phase_o`. -/
def State.phaseO (s : State) : BitVec 4 := s.phase.code

/-- `cause_o`. -/
def State.causeO (s : State) : BitVec 3 := s.cause.code

/-- `core_rst`: asserted with `rst` (R241). -/
def State.coreRstO (s : State) : Bool := s.host.now.rst

/-! ### The surface (R28, R50, R52, R163) -/

/-- The listed colour at an address, if there is one. -/
def lookupCell (cells : List (Nat × Colour)) (a : Nat) : Option Colour :=
  match cells with
  | [] => none
  | p :: rest => if p.1 = a then some p.2 else lookupCell rest a

/-- Lists a colour at an address, keeping the addresses strictly rising. -/
def insertCell (a : Nat) (c : Colour) (cells : List (Nat × Colour)) : List (Nat × Colour) :=
  match cells with
  | [] => [(a, c)]
  | p :: rest =>
      if a < p.1 then (a, c) :: p :: rest
      else if p.1 = a then (a, c) :: rest
      else p :: insertCell a c rest

/-- Takes an address off the list. -/
def eraseCell (a : Nat) (cells : List (Nat × Colour)) : List (Nat × Colour) :=
  match cells with
  | [] => []
  | p :: rest => if p.1 = a then rest else p :: eraseCell a rest

/-- What an unlisted address reads as: the ONE definition of it. -/
def Background.read : Background → Nat → Colour
  | .unspecified n, a => Config.surfaceAtReset n a
  | .painted c, _ => c

/-- The colour at a linear address. -/
def Memory.read (m : Memory) (a : Nat) : Colour := (lookupCell m.cells a).getD (m.background.read a)

/-- `MemWrite(SURF, a, 1, c)`, keeping the canonical form (R52). -/
def Memory.write (m : Memory) (a : Nat) (c : Colour) : Memory :=
  if m.background = .painted c then ⟨m.background, eraseCell a m.cells⟩
  else ⟨m.background, insertCell a c m.cells⟩

/-- Addresses strictly rise from `lo` on, and no colour equals `bg`. -/
def cellsWf (bg : Background) (lo : Nat) : List (Nat × Colour) → Bool
  | [] => true
  | p :: rest => decide (lo ≤ p.1) && decide (bg ≠ .painted p.2) && cellsWf bg (p.1 + 1) rest

/-- The canonical form: addresses strictly rising, no entry equal to what an unlisted address reads as. -/
def Memory.wf (m : Memory) : Bool := cellsWf m.background 0 m.cells

/-- `clear(c)`: every pixel of the surface becomes `c` (R163). -/
def Memory.cleared (c : Colour) : Memory := ⟨.painted c, []⟩

/-- Writes `n` consecutive addresses from `a`. -/
def Memory.writeRun (m : Memory) (a n : Nat) (c : Colour) : Memory :=
  match n with
  | 0 => m
  | n + 1 => (m.writeRun a n c).write (a + n) c

/-- Writes `rows` runs of `n` addresses, the first at `a`, each `stride` above the one before it (R163). -/
def Memory.writeRect (m : Memory) (a stride n rows : Nat) (c : Colour) : Memory :=
  match rows with
  | 0 => m
  | rows + 1 => (m.writeRect a stride n rows c).writeRun (a + rows * stride) n c

/-- The colour code of surface pixel `(X, Y)` (R28, R52). -/
def State.pixel (s : State) (x y : Nat) : Colour := s.surf.read (s.cfg.pixelAddr x y)

/-- The colour code the display shows at pixel `(X, Y)`. -/
def State.shownPixel (s : State) (x y : Nat) : Colour := s.shown.read (s.cfg.pixelAddr x y)

/-- The colour value the display shows at pixel `(X, Y)`: `BG` or `FG` applied to the code (R199). -/
def State.shownColour (s : State) (x y : Nat) : Nat := s.cfg.displayColour (s.shownPixel x y)

/-! ### The draw port (R199) -/

/-- The rectangle of a draw command lies inside the surface (R50); the other two commands name no pixel. -/
def drawFits (cfg : Config) : DrawCmd → Bool
  | .fill x y side _ => decide (x + side ≤ cfg.surfW) && decide (y + side ≤ cfg.surfH)
  | .clear _ | .present => true

/-- A draw command applied to the surface (R163). -/
def drawOn (cfg : Config) (d : DrawCmd) (m : Memory) : Memory :=
  match d with
  | .clear c => Memory.cleared c
  | .fill x y side c => m.writeRect (cfg.pixelAddr x y) cfg.surfW side side c
  | .present => m

/-- What the display shows after a draw command: a copy of the surface at `present()`, otherwise what it showed (R164). -/
def displayAfter (d : DrawCmd) (surf shown : Memory) : Memory :=
  match d with
  | .present => surf
  | .clear _ | .fill _ _ _ _ => shown

/-- `emit d` (R199): appends the command to the trace, applies it to the surface, and at `present()` hands the display a
copy of the surface. -/
def emit (d : DrawCmd) (s : State) : State :=
  ((s.log (.draw d)).setSurf (drawOn s.cfg d s.surf)).setShown (displayAfter d s.surf s.shown)

/-! ### The core behind the command port (R190, R196, R198) -/

/-- A core's answer to a command: its new state, its fault bit, and whether it completes at all. -/
structure Reply where
  core : Core
  fault : Bool
  completes : Bool
  deriving DecidableEq, Repr

/-- The fault bit a core answers `load` with: asserted exactly for an oversized image (R186, R191, R196; U2). -/
def oversized (cfg : Config) (bytes : List Byte) : Bool := decide (cfg.romMax < bytes.length)

/-- The key-state table with one entry changed: `KEYS[k] <- p` (R194, R198). -/
def setKey (keys : BitVec 16) (k : Key) (p : Bool) : BitVec 16 :=
  if p then keys ||| (1#16 <<< k.toNat) else keys &&& ~~~ (1#16 <<< k.toNat)

/-- The display of the fake core after its next `step()` (R198; P6 for a core with `firstStepSets`). -/
def FakeCore.stepDisplay (f : FakeCore) : List Bool :=
  match f.firstStepSets with
  | none => f.display
  | some i => if f.steps = 0 then f.display.set i true else f.display

/-- The transitions of the reference fake core (R198). -/
def FakeCore.next (f : FakeCore) : CoreCmd → FakeCore
  | .load bytes => { f with mem := some bytes }
  | .step => { f with steps := f.steps + 1, display := f.stepDisplay }
  | .tickTimers => { f with ticks := f.ticks + 1 }
  | .keyEvent k p => { f with keys := setKey f.keys k p }
  | .readDisplay => f

/-- The fault bit of the fake core: on the `step()` whose ordinal is `fault_at` (R198), and on `faultOn`. -/
def FakeCore.faults (f : FakeCore) (c : CoreCmd) : Bool :=
  match c with
  | .step => decide (f.faultAt = some (f.steps + 1)) || decide (f.faultOn = some .step)
  | .load _ | .tickTimers | .keyEvent _ _ | .readDisplay => decide (f.faultOn = some c)

/-- The fake core completes every command but `hangsOn`. -/
def FakeCore.completes (f : FakeCore) (c : CoreCmd) : Bool := decide (f.hangsOn ≠ some c)

/-- The fake core as it is when fresh (R198). -/
def FakeCore.fresh (f : FakeCore) : FakeCore :=
  { f with mem := none, steps := 0, ticks := 0, keys := 0, display := f.freshDisplay }

/-- The state an opaque core goes to: `read_display()` changes nothing (R195, R196), every other command goes to a state
nothing is known of (R190). -/
def opaqueNext (c : CoreCmd) (t : Nat) (loaded : Bool) : Core :=
  match c with
  | .readDisplay => .opaqueCore t loaded
  | .load bytes => .opaqueCore (Config.coreNext (.load bytes) t) true
  | .step => .opaqueCore (Config.coreNext .step t) loaded
  | .tickTimers => .opaqueCore (Config.coreNext .tickTimers t) loaded
  | .keyEvent k p => .opaqueCore (Config.coreNext (.keyEvent k p) t) loaded

/-- The fault bit of any core that answers other commands with `other`: `load` faults exactly when the image is
oversized, on every core the spec describes (R186, R196; U2). -/
def faultBit (cfg : Config) (c : CoreCmd) (other : Bool) : Bool :=
  match c with
  | .load bytes => oversized cfg bytes
  | .step | .tickTimers | .keyEvent _ _ | .readDisplay => other

/-- `Core.apply` (R190). -/
def Core.apply (cfg : Config) (c : CoreCmd) : Core → Reply
  | .opaqueCore t loaded => ⟨opaqueNext c t loaded, faultBit cfg c (Config.coreFault c t), Config.coreCompletes c t⟩
  | .fake f => ⟨.fake (f.next c), faultBit cfg c (f.faults c), f.completes c⟩

/-- The core has been sent a `load` since it was fresh (R184, U1). -/
def Core.loaded : Core → Bool
  | .opaqueCore _ loaded => loaded
  | .fake f => f.mem.isSome

/-- The core after its reset (R241). -/
def Core.fresh : Core → Core
  | .opaqueCore _ _ => Core.freshOpaque
  | .fake f => .fake f.fresh

/-- The core's display has `W*H` cells (R195, R196); of an opaque core that is the spec's own assumption. -/
def Core.fits (cfg : Config) : Core → Bool
  | .opaqueCore _ _ => true
  | .fake f => decide (f.display.length = cfg.cells) && decide (f.freshDisplay.length = cfg.cells)

/-- `MemRead(PB, i, 1)`: the display bit the core holds at an index (R51); none where its display has no such cell. -/
def Core.pixel : Core → Nat → Option Bool
  | .opaqueCore t _, i => some (Config.corePixel t i)
  | .fake f, i => f.display[i]?

/-- The fake core's program memory at an address: byte `i` of the image stands at `LOAD_OFFSET + i` (R54, R198). -/
def FakeCore.memAt (cfg : Config) (f : FakeCore) (a : Nat) : Option Byte :=
  match f.mem with
  | none => none
  | some bytes => if a < cfg.loadOffset then none else bytes[a - cfg.loadOffset]?

/-! ### Entering OFF and HALT (R217, R218) -/

/-- The terminal phase of a cause (R210). -/
def Cause.terminal : Cause → Phase
  | .usage | .romUnreadable => .off
  | .none | .load | .step | .tickTimers | .keyEvent | .readDisplay => .halt

/-- `raise`: the ONE entry into a terminal phase. `CAUSE <- c` and `PHASE` becomes OFF for a boot abort (R217) and HALT
for a core fault (R218); no other register changes. There is no return (R220): only reset leaves either phase. -/
def raise (c : Cause) (s : State) : State := (s.setCause c).goto c.terminal

/-- The cause a core fault on a command has (R210). -/
def CoreCmd.cause : CoreCmd → Cause
  | .load _ => .load
  | .step => .step
  | .tickTimers => .tickTimers
  | .keyEvent _ _ => .keyEvent
  | .readDisplay => .readDisplay

/-- The cause of a boot abort: `1 + reason` (R214). -/
def AbortReason.cause : AbortReason → Cause
  | .usage => .usage
  | .romUnreadable => .romUnreadable

/-! ### The core command port (R190) -/

/-- The core's answer to a command in this state. -/
def State.reply (s : State) (c : CoreCmd) : Reply := s.core.apply s.cfg c

/-- `CoreCmd(c)` up to the core's answer: the command is in the trace and the core has moved (R190). -/
def State.sent (s : State) (c : CoreCmd) : State := (s.log (.core c)).setCore (s.reply c).core

/-- `f <- CoreCmd(c)`, then `raise CoreFault` if `f`, otherwise the rest `k` of the operation (R190, R213, R218). A
command the core never completes leaves the block inside the operation (U12). -/
def issue (c : CoreCmd) (k : State → State) (s : State) : State :=
  if (s.reply c).completes then
    if (s.reply c).fault then raise c.cause ((s.sent c).log (.fault c.cause))
    else k (s.sent c)
  else (s.sent c).setInFlight (some c)

/-- `load` with the two cases the spec refuses: an image the length field cannot express (R86) and a second `load` on
one core lifetime (U1). -/
def issueLoad (bytes : List Byte) (k : State → State) (s : State) : Host.Outcome State Fault Refusal :=
  if 2 ^ s.cfg.lenw ≤ bytes.length then .refused .imageTooLong
  else if s.core.loaded then .refused .loadTwice
  else .next (issue (.load bytes) k s)

/-! ### Reset (R240 to R242) and the host port (R201) -/

/-- The state while `rst` is asserted and when it is released (R240): the reset state of this configuration, a fresh
core (R241), an empty trace (R242), the surface and the display unspecified anew. The host port is not the block's. -/
def hardReset (s : State) : State :=
  { State.resetOf s.cfg with
    surf := ⟨.unspecified (2 * s.host.draws), []⟩
    shown := ⟨.unspecified (2 * s.host.draws + 1), []⟩
    core := s.core.fresh
    host := s.host }

/-- The host's signals for the next step: the next scheduled ones, or a free draw (R202). -/
def HostPort.advance (h : HostPort) : HostPort :=
  match h.later with
  | [] => ⟨Config.hostInput h.draws, [], h.draws + 1⟩
  | i :: rest => ⟨i, rest, h.draws + 1⟩

/-- The state with the host's signals moved on to the next step. -/
def State.advance (s : State) : State := s.setHost s.host.advance

/-- A step's outcome from an operation's: the host's signals move on. -/
def afterExec : Host.Outcome State Fault Refusal → Host.Outcome State Fault Refusal
  | .next s => .next s.advance
  | .fault f => .fault f
  | .refused r => .refused r

/-! ### Fetching the next operation -/

/-- What a step is going to do. -/
inductive Fetched where
  /-- The machine is not defined here, or the word is no instruction. -/
  | reject (r : Refusal)
  /-- `rst` is asserted. -/
  | reset
  /-- A core command has not completed: the block is inside its operation (U12). -/
  | wait
  /-- This instruction runs on this state. -/
  | run (i : Instr) (s : State)
  deriving DecidableEq, Repr

/-- The instruction a decoder's answer selects. -/
def fetched (d : Except Reject Instr) (s : State) : Fetched :=
  match d with
  | .ok i => .run i s
  | .error why => .reject (.reservedEncoding why)

/-- OFF and HALT, the two terminal phases (R226). -/
def Phase.isTerminal : Phase → Bool
  | .off | .halt => true
  | .boot | .sample | .press | .release | .step | .tick | .rclear | .rscan | .present | .sync => false

/-- The word the next step takes from the command inlet (log entry 7): none in a terminal phase, which only `rst` leaves
(R217, R218, R226). -/
def State.inlet (s : State) : Option (Format × Nat) := if s.phase.isTerminal then none else s.cmdIn

/-- What a word at the command inlet is: a command of the core or draw port. A `PHASE` code is refused, since only `PHASE`
selects operations (R21, R221). -/
def decodeInlet (cfg : Config) (f : Format) (w : Nat) : Except Reject Instr :=
  match f, decode cfg f w with
  | .ph, .ok _ => .error .outOfPhase
  | _, d => d

/-- Fetch: an ill-formed record and a display of another size are refused (R93, U5); `rst` overrides everything (R216,
R240); a command in flight holds the block (U12); a word at the command inlet is taken (log entry 7); otherwise `PHASE`
selects the operation (R21). Power is on at every step (DESIGN CHOICE, log entry 17). -/
def fetch (s : State) : Fetched :=
  if s.cfg.wf = false then .reject .illFormedConfig
  else if s.core.fits s.cfg = false then .reject .displayMismatch
  else if s.host.now.rst then .reset
  else if s.inFlight.isSome then .wait
  else match s.inlet with
    | some (f, w) => fetched (decodeInlet s.cfg f w) (s.setCmdIn none)
    | none => fetched (decode s.cfg .ph s.phase.code.toNat) s

/-- The host event an operation waits for, raised: the boot input for BOOT (R180), `vsync` for SYNC (R141). -/
def enable (p : Phase) (i : HostInput) : HostInput :=
  match p with
  | .boot => { i with rst := false, boot := some (i.boot.getD (.go [])) }
  | .sync => { i with rst := false, vsync := true }
  | .off | .sample | .press | .release | .step | .tick | .rclear | .rscan | .present | .halt => { i with rst := false }

/-- A phase in which the command inlet is read: a terminal one becomes BOOT. -/
def Phase.live (p : Phase) : Phase := if p.isTerminal then .boot else p

/-- Puts a word of spec/opcode_table.json where the next step takes it: a `PHASE` code into `PHASE`, with the host event
its operation waits for raised; any other word at the command inlet, with `PHASE` out of OFF and HALT, where no step
reads the inlet. -/
def placeWord (s : State) (nbits w : Nat) : State :=
  let v := w % 2 ^ nbits
  match tableFormat nbits v, Phase.ofCode v with
  | .ph, some p => (((s.goto p).setInFlight none).setCmdIn none).setHost { s.host with now := enable p s.host.now }
  | f, _ => (((s.goto s.phase.live).setInFlight none).setCmdIn (some (f, v))).setHost
      { s.host with now := { s.host.now with rst := false } }

end Sys2Proof.Machine
end

