-- ==== Sys2Proof/Machine/Flags.lean ====
section
/-! DEFINITION. The block has no flags and no condition codes (R27). What stands here are the conditions R27 lists: each
is tested inside the operation that computes it and leaves nothing behind. -/

namespace Sys2Proof.Machine

/-- STEP may run: `STEPCNT < FRAME_BUDGET` (R138's invariant on entry). -/
def State.stepDue (s : State) : Bool := decide (s.stepcnt < s.cfg.frameBudget)

/-- RSCAN may run: `IDX < W*H` (R162's invariant on entry). -/
def State.cellDue (s : State) : Bool := decide (s.idx < s.cfg.cells)

/-- The phase after STEP for the new `STEPCNT`: TICK when it is `FRAME_BUDGET` (R135, R138). -/
def phaseAfterStep (cfg : Config) (n : Nat) : Phase := if n = cfg.frameBudget then .tick else .step

/-- The phase after RSCAN for the new `IDX`: PRESENT when it is `W*H` (R135, R162). -/
def phaseAfterScan (cfg : Config) (n : Nat) : Phase := if n = cfg.cells then .present else .rscan

end Sys2Proof.Machine
end

