-- ==== Sys2Proof/Machine/Bootstrap.lean ====
section
/-! DEFINITION. BT, the boot handshake (spec/44_bootstrap.md): BOOT. -/

namespace Sys2Proof.Machine

/-- BOOT (R180): holds until the host presents its boot input; on `boot_abort` enters OFF (R183, R217); on `boot_go`
loads the image and goes to SAMPLE, or to HALT on the core's fault. -/
def execBoot (s : State) : Host.Outcome State Fault Refusal :=
  match s.host.now.boot with
  | none => .next s
  | some (.abort reason) => .next (raise reason.cause (s.log (.bootAbort reason)))
  | some (.go rom) => issueLoad rom (fun t => t.goto .sample) (s.log (.bootGo rom))

end Sys2Proof.Machine
end

