-- ==== Sys2Proof/Machine/CorePort.lean ====
section
/-! DEFINITION. The five commands of the core command port (spec/45_core_boundary.md R190 to R195), each as the port and
the core behind it perform it. What the block does with its phase belongs to the operation that issues the command; a
fault is raised here, since every rule of a command says that the block then goes to HALT. -/

namespace Sys2Proof.Machine

/-- `load(bytes)` (R191). -/
def execCoreLoad (bytes : List Byte) (s : State) : Host.Outcome State Fault Refusal :=
  issueLoad bytes (fun t => t) s

/-- `step()` (R192). -/
def execCoreStep (s : State) : Host.Outcome State Fault Refusal := .next (issue .step (fun t => t) s)

/-- `tick_timers()` (R193). -/
def execCoreTickTimers (s : State) : Host.Outcome State Fault Refusal := .next (issue .tickTimers (fun t => t) s)

/-- `key_event(key, pressed)` (R194). -/
def execCoreKeyEvent (pressed : Bool) (key : Key) (s : State) : Host.Outcome State Fault Refusal :=
  .next (issue (.keyEvent key pressed) (fun t => t) s)

/-- `read_display()` (R195). -/
def execCoreReadDisplay (s : State) : Host.Outcome State Fault Refusal := .next (issue .readDisplay (fun t => t) s)

end Sys2Proof.Machine
end

