-- ==== Sys2Proof/Machine/DrawPort.lean ====
section
/-! DEFINITION. The three commands of the draw port (spec/43_renderer.md R163, R164; spec/45_core_boundary.md R199), each
as the surface performs it. -/

namespace Sys2Proof.Machine

/-- `clear(c)` (R163). -/
def execDrawClear (c : Colour) (s : State) : Host.Outcome State Fault Refusal := .next (emit (.clear c) s)

/-- `fill(x, y, side, c)` (R163): a rectangle that leaves the surface names pixels that do not exist (R50). -/
def execDrawFill (x y side : Nat) (c : Colour) (s : State) : Host.Outcome State Fault Refusal :=
  if drawFits s.cfg (.fill x y side c) then .next (emit (.fill x y side c) s) else .fault .surfaceRange

/-- `present()` (R164). -/
def execDrawPresent (s : State) : Host.Outcome State Fault Refusal := .next (emit .present s)

end Sys2Proof.Machine
end

