-- ==== Sys2Proof/Machine/FrameScheduler.lean ====
section
/-! DEFINITION. FS, the frame-budget counter (spec/42_frame_scheduler.md): STEP, TICK, SYNC. -/

namespace Sys2Proof.Machine

/-- STEP (R138): one `step()`, counted unless the core faults. Where the invariant on entry fails, the counter has no
next value and the operation is never executed (R24): a fault. -/
def execStep (s : State) : Host.Outcome State Fault Refusal :=
  if s.stepDue then
    .next (issue .step
      (fun t => (t.setStepcnt (s.stepcnt + 1)).goto (phaseAfterStep s.cfg (s.stepcnt + 1))) s)
  else .fault .stepCounterRange

/-- TICK (R139). -/
def execTick (s : State) : Host.Outcome State Fault Refusal :=
  .next (issue .tickTimers (fun t => t.goto .rclear) s)

/-- SYNC (R141): holds until the host raises `vsync`. -/
def execSync (s : State) : Host.Outcome State Fault Refusal :=
  if s.host.now.vsync then .next ((s.log .vsync).goto .sample) else .next s

end Sys2Proof.Machine
end

