-- ==== Sys2Proof/Machine/InputBridge.lean ====
section
/-! DEFINITION. ED, the input edge detector (spec/41_input_bridge.md): SAMPLE, PRESS, RELEASE. -/

namespace Sys2Proof.Machine

/-- The `NHK`-bit vector `host_keys` as it stands now (R80, R201). -/
def State.hostKeys (s : State) : Lines := s.cfg.lines s.host.now.keys

/-- Reports a keymap result as one `key_event`, or nothing when it is `none`, and goes on with `k` (R121, R122). -/
def report (r : Option Key) (pressed : Bool) (k : State → State) (s : State) : State :=
  match r with
  | none => k s
  | some key => issue (.keyEvent key pressed) k s

/-- SAMPLE (R120). -/
def execSample (s : State) : Host.Outcome State Fault Refusal :=
  .next (((s.log (.sample s.hostKeys)).setLines (s.cfg.newlyPressed s.hostKeys s.prev)
    (s.cfg.newlyReleased s.hostKeys s.prev) s.hostKeys).goto .press)

/-- PRESS (R121). -/
def execPress (s : State) : Host.Outcome State Fault Refusal :=
  .next (report (s.cfg.km s.down) true (fun t => t.goto .release) s)

/-- RELEASE (R122). -/
def execRelease (s : State) : Host.Outcome State Fault Refusal :=
  .next (report (s.cfg.km s.up) false (fun t => (t.setStepcnt 0).goto .step) s)

end Sys2Proof.Machine
end

