-- ==== Sys2Proof/Machine/Keymap.lean ====
section
/-! DEFINITION. KM, the keymap priority-encoder (spec/40_keymap.md R110): the row KMAP. PRESS and RELEASE apply the same
function inside themselves. -/

namespace Sys2Proof.Machine

/-- KMAP (R110): evaluates `KM(v)`. The function reads and writes no state of the block; its result, in format KO (R84),
is left in the model's own record of it (log entry 8). -/
def execKmap (v : Lines) (s : State) : Host.Outcome State Fault Refusal := .next (s.setKmOut (encodeKO (s.cfg.km v)))

end Sys2Proof.Machine
end

