-- ==== Sys2Proof/Machine/Renderer.lean ====
section
/-! DEFINITION. RA, the monochrome rasterizer (spec/43_renderer.md): RCLEAR, RSCAN, PRESENT. -/

namespace Sys2Proof.Machine

/-- The `fill` of PixelBuffer cell `i`: corner `(x*SCALE, y*SCALE)`, side `SCALE`, colour `FG` (R89, R162). -/
def cellFill (cfg : Config) (i : Nat) : DrawCmd := .fill (cfg.cornerX i) (cfg.cornerY i) cfg.scale .fg

/-- Paints cell `i` if its bit is set (R162). -/
def paintCell (i : Nat) (b : Bool) (s : State) : State := if b then emit (cellFill s.cfg i) s else s

/-- RCLEAR (R161). -/
def execRclear (s : State) : Host.Outcome State Fault Refusal :=
  .next (issue .readDisplay (fun t => ((emit (.clear .bg) t).setIdx 0).goto .rscan) s)

/-- RSCAN (R162). A read outside the PixelBuffer is never issued (R51): a fault. A display too short for its
configuration is refused (U5). -/
def execRscan (s : State) : Host.Outcome State Fault Refusal :=
  if s.cellDue then
    match s.core.pixel s.idx with
    | none => .refused .displayMismatch
    | some b =>
        .next (((paintCell s.idx b s).setIdx (s.idx + 1)).goto (phaseAfterScan s.cfg (s.idx + 1)))
  else .fault .pixelBufferIndex

/-- PRESENT (R164). -/
def execPresent (s : State) : Host.Outcome State Fault Refusal :=
  .next ((emit .present s).goto .sync)

end Sys2Proof.Machine
end

