-- ==== Sys2Proof/Machine/Terminal.lean ====
section
/-! DEFINITION. The two terminal phases (spec/60_exceptions.md R217, R218, R226): OFF and HALT perform nothing. -/

namespace Sys2Proof.Machine

/-- OFF (R217): no operation is enabled, for ever; only reset leaves it. -/
def execOff (s : State) : Host.Outcome State Fault Refusal := .next s

/-- HALT (R218): no operation is enabled, for ever; only reset leaves it. -/
def execHalt (s : State) : Host.Outcome State Fault Refusal := .next s

end Sys2Proof.Machine
end

