-- ==== Sys2Proof/Machine/Dispatch.lean ====
section
/-! DEFINITION. exec: one arm per instruction, each one call of its meaning. -/

namespace Sys2Proof.Machine

def exec (i : Instr) (s : State) : Host.Outcome State Fault Refusal :=
  match i with
  | .off => Sys2Proof.Machine.execOff s
  | .boot => Sys2Proof.Machine.execBoot s
  | .sample => Sys2Proof.Machine.execSample s
  | .press => Sys2Proof.Machine.execPress s
  | .release => Sys2Proof.Machine.execRelease s
  | .step => Sys2Proof.Machine.execStep s
  | .tick => Sys2Proof.Machine.execTick s
  | .rclear => Sys2Proof.Machine.execRclear s
  | .rscan => Sys2Proof.Machine.execRscan s
  | .present => Sys2Proof.Machine.execPresent s
  | .sync => Sys2Proof.Machine.execSync s
  | .halt => Sys2Proof.Machine.execHalt s
  | .coreLoad bytes => Sys2Proof.Machine.execCoreLoad bytes s
  | .coreStep => Sys2Proof.Machine.execCoreStep s
  | .coreTickTimers => Sys2Proof.Machine.execCoreTickTimers s
  | .coreKeyEvent pressed key => Sys2Proof.Machine.execCoreKeyEvent pressed key s
  | .coreReadDisplay => Sys2Proof.Machine.execCoreReadDisplay s
  | .drawClear c => Sys2Proof.Machine.execDrawClear c s
  | .drawFill x y side c => Sys2Proof.Machine.execDrawFill x y side c s
  | .drawPresent => Sys2Proof.Machine.execDrawPresent s
  | .kmap v => Sys2Proof.Machine.execKmap v s

end Sys2Proof.Machine
end

