-- ==== Sys2Proof/Machine/Step.lean ====
section
/-! DEFINITION. One step of the machine: reset, a hold inside a core command that has not completed, or one operation;
then the host's signals move on. -/

namespace Sys2Proof.Machine

/-- One step (R7, R8): what `fetch` selects is done, and the host's signals for the next step follow. -/
def step (s : State) : Host.Outcome State Fault Refusal :=
  match fetch s with
  | .reject r => .refused r
  | .reset => .next (hardReset s).advance
  | .wait => .next s.advance
  | .run i t => afterExec (exec i t)

/-- `s` with a word of spec/opcode_table.json placed where the next step takes it (log entry 7). -/
def State.withFetchWord (s : State) (nbits w : Nat) : State := placeWord s nbits w

end Sys2Proof.Machine
end

