-- ==== Sys2Proof/Machine/Text.lean ====
section
/-! DEFINITION. How traces and frames are written (spec/30_encoding.md R95, R96): the text of an event, the words an event
puts on its port, and the macro-operations. -/

namespace Sys2Proof.Machine

/-- One hexadecimal digit, upper case. -/
def hexDigit (n : Nat) : Char :=
  if n % 16 < 10 then Char.ofNat (48 + n % 16) else Char.ofNat (55 + n % 16)

/-- The low `d` hexadecimal digits of a number, most significant first. -/
def hexDigits (d n : Nat) : String :=
  match d with
  | 0 => ""
  | d + 1 => hexDigits d (n / 16) ++ String.singleton (hexDigit n)

/-- Bytes in hex between angle brackets, as in `load(<12 00>)`. -/
def bytesText (bytes : List Byte) : String :=
  "<" ++ String.intercalate " " (bytes.map fun b => hexDigits 2 b.toNat) ++ ">"

/-- The text of a colour code. -/
def Colour.text : Colour → String
  | .bg => "bg"
  | .fg => "fg"

/-- The text of a core command. -/
def CoreCmd.text : CoreCmd → String
  | .load bytes => "load(" ++ bytesText bytes ++ ")"
  | .step => "step()"
  | .tickTimers => "tick_timers()"
  | .keyEvent key pressed =>
      "key_event(0x" ++ hexDigits 1 key.toNat ++ ", " ++ (if pressed then "true" else "false") ++ ")"
  | .readDisplay => "read_display()"

/-- The text of a draw command. -/
def DrawCmd.text : DrawCmd → String
  | .clear c => "clear(" ++ Colour.text c ++ ")"
  | .fill x y side c => "fill(" ++ toString x ++ ", " ++ toString y ++ ", " ++ toString side ++ ", " ++ Colour.text c ++ ")"
  | .present => "present()"

/-- The text of an event (R95). -/
def Event.text (cfg : Config) : Event → String
  | .bootGo rom => "boot_go(" ++ bytesText rom ++ ")"
  | .bootAbort .usage => "boot_abort(usage)"
  | .bootAbort .romUnreadable => "boot_abort(rom_unreadable)"
  | .sample v => "sample(0x" ++ hexDigits ((cfg.nhk + 3) / 4) v ++ ")"
  | .core c => c.text
  | .draw d => d.text
  | .vsync => "vsync"
  | .fault _ => "fault"

/-- The text of a trace: its events separated by semicolons (R95). -/
def traceText (cfg : Config) (t : List Event) : String := String.intercalate "; " (t.map (Event.text cfg))

/-- The words the events of a trace put on the core command port (R85, R86). -/
def coreWords (t : List Event) : List Nat :=
  t.flatMap fun e => match e with
    | .core c => c.words
    | .bootGo _ | .bootAbort _ | .sample _ | .draw _ | .vsync | .fault _ => []

/-- The words the events of a trace put on the draw port (R87). -/
def drawWords (cfg : Config) (t : List Event) : List Nat :=
  t.flatMap fun e => match e with
    | .draw d => [d.word cfg]
    | .bootGo _ | .bootAbort _ | .sample _ | .core _ | .vsync | .fault _ => []

/-- INPUT of R96. -/
def macroInput : List Instr := [.sample, .press, .release]

/-- CPU of R96: `FRAME_BUDGET*STEP; TICK`. -/
def macroCpu (cfg : Config) : List Instr := List.replicate cfg.frameBudget .step ++ [.tick]

/-- RENDER of R96: `RCLEAR; (W*H)*RSCAN; PRESENT`. -/
def macroRender (cfg : Config) : List Instr := [.rclear] ++ List.replicate cfg.cells .rscan ++ [.present]

/-- FRAME of R96. -/
def macroFrame (cfg : Config) : List Instr := macroInput ++ macroCpu cfg ++ macroRender cfg ++ [.sync]

/-- RUN of R96 up to its `n`th frame. -/
def macroRun (cfg : Config) (n : Nat) : List Instr := [.boot] ++ (List.replicate n (macroFrame cfg)).flatten

end Sys2Proof.Machine
end

