-- ==== Sys2Proof/Safety.lean ====
section
/-! DEFINITION. The terms the claims use: counts over the trace, the invariants of the block, the successor relation, the
shape of a frame's trace, and what a run without reset is. -/

namespace Sys2Proof.Machine

/-! ### Counts over the trace (R9, R144, R184) -/

/-- The core commands of a trace, in order. -/
def coreCmds (t : List Event) : List CoreCmd :=
  t.filterMap fun e => match e with
    | .core c => some c
    | .bootGo _ | .bootAbort _ | .sample _ | .draw _ | .vsync | .fault _ => none

/-- `F`: the completed frames of a trace, its `vsync` events (R144). -/
def framesIn (t : List Event) : Nat := t.count .vsync

/-- `S`: the `step()` events of a trace (R144). -/
def stepsIn (t : List Event) : Nat := t.count (.core .step)

/-- `T`: the `tick_timers()` events of a trace (R144). -/
def ticksIn (t : List Event) : Nat := t.count (.core .tickTimers)

/-- The draw commands of a trace, in order. -/
def drawCmds (t : List Event) : List DrawCmd :=
  t.filterMap fun e => match e with
    | .draw d => some d
    | .bootGo _ | .bootAbort _ | .sample _ | .core _ | .vsync | .fault _ => none

/-- The draw commands after the last `clear`. -/
def sinceClear (ds : List DrawCmd) : List DrawCmd :=
  ds.foldl (fun acc d => match d with
    | .clear _ => []
    | .fill _ _ _ _ | .present => acc ++ [d]) []

/-- The fills of the set cells below index `n`, ascending (R162, R166). -/
def fillsBelow (cfg : Config) (k : Core) (n : Nat) : List DrawCmd :=
  ((List.range n).filter fun i => k.pixel i = some true).map fun i =>
    .fill (i % cfg.width * cfg.scale) (i / cfg.width * cfg.scale) cfg.scale .fg

/-- A command is a `load`. -/
def CoreCmd.isLoad : CoreCmd → Bool
  | .load _ => true
  | .step | .tickTimers | .keyEvent _ _ | .readDisplay => false

/-! ### Phases and safe states -/

/-- The nine running phases (00_scope.md section 7). -/
def Phase.running : Phase → Bool
  | .off | .boot | .halt => false
  | .sample | .press | .release | .step | .tick | .rclear | .rscan | .present | .sync => true

/-- No fault is recorded: `CAUSE < 3` (R26; U3). -/
def State.noFault (s : State) : Bool := decide (s.cause.code.toNat < 3)

/-- A step is defined here: the configuration is well formed (R93), the core's display has its size (U5), and no word
stands at the model's command inlet (log entry 7). -/
def State.Ready (s : State) : Prop := s.cfg.wf = true ∧ s.core.fits s.cfg = true ∧ s.cmdIn = none

/-- A step here performs the operation `PHASE` selects: the state is ready, `rst` is not asserted and no core command is
in flight. -/
def State.Runs (s : State) : Prop := s.Ready ∧ s.host.now.rst = false ∧ s.inFlight = none

/-! ### Invariants -/

/-- R23, and the registers hold `NHK` bits (R20): no line is in both sets, every newly pressed line is pressed in `PREV`,
no newly released line is. -/
def State.LinesInv (s : State) : Prop :=
  s.prev < 2 ^ s.cfg.nhk ∧ s.down < 2 ^ s.cfg.nhk ∧ s.up < 2 ^ s.cfg.nhk ∧
  ∀ j, (s.down.testBit j = true → s.prev.testBit j = true ∧ s.up.testBit j = false) ∧
    (s.up.testBit j = true → s.prev.testBit j = false)

/-- R24, R25: the counters' ranges, and the entry invariants of STEP (R138) and RSCAN (R162). -/
def State.CounterInv (s : State) : Prop :=
  s.stepcnt ≤ s.cfg.frameBudget ∧ s.idx ≤ s.cfg.cells ∧
  (s.phase = .step → s.stepcnt < s.cfg.frameBudget) ∧ (s.phase = .rscan → s.idx < s.cfg.cells)

/-- R26, R210: `CAUSE` is 0 in BOOT and in every running phase, 1 or 2 in OFF, 3 to 7 in HALT. -/
def State.CauseInv (s : State) : Prop :=
  match s.phase with
  | .off => s.cause = .usage ∨ s.cause = .romUnreadable
  | .halt => 3 ≤ s.cause.code.toNat
  | .boot | .sample | .press | .release | .step | .tick | .rclear | .rscan | .present | .sync => s.cause = .none

/-- The surface and the display's copy of it are in canonical form. -/
def State.SurfInv (s : State) : Prop := s.surf.wf = true ∧ s.shown.wf = true

/-- R184: no core command before BOOT is done, none ever in OFF, and otherwise exactly one `load`, before every other
core command. -/
def State.LoadInv (s : State) : Prop :=
  if s.phase = .boot ∧ s.inFlight = none then coreCmds s.trace = [] ∧ s.core.loaded = false
  else if s.phase = .off then coreCmds s.trace = [] ∧ s.inFlight = none
  else ∃ bytes rest, coreCmds s.trace = .load bytes :: rest ∧ rest.all (fun c => !c.isLoad) = true

/-- R144: the exact counts in every phase of a block that has not faulted and is not inside a core command. -/
def State.CountInv (s : State) : Prop :=
  s.inFlight = none →
  match s.phase with
  | .boot | .sample | .press | .release =>
      stepsIn s.trace = s.cfg.frameBudget * framesIn s.trace ∧ ticksIn s.trace = framesIn s.trace
  | .step =>
      stepsIn s.trace = s.cfg.frameBudget * framesIn s.trace + s.stepcnt ∧ ticksIn s.trace = framesIn s.trace
  | .tick =>
      stepsIn s.trace = s.cfg.frameBudget * (framesIn s.trace + 1) ∧ ticksIn s.trace = framesIn s.trace
  | .rclear | .rscan | .present | .sync =>
      stepsIn s.trace = s.cfg.frameBudget * (framesIn s.trace + 1) ∧ ticksIn s.trace = framesIn s.trace + 1
  | .off | .halt => True

/-- R168: while the scan is under way the cells below `IDX` are drawn and the rest is background; when it is done the
surface, and after `present()` the display, is the PixelBuffer magnified by `SCALE`. -/
def State.RenderInv (s : State) : Prop :=
  ∀ x y b, x < s.cfg.surfW → y < s.cfg.surfH → s.core.pixel (s.cfg.cellOfPixel x y) = some b →
    (s.phase = .rscan →
      s.pixel x y = if s.cfg.cellOfPixel x y < s.idx then Colour.ofBit b else .bg) ∧
    (s.phase = .present → s.pixel x y = Colour.ofBit b) ∧
    (s.phase = .sync → s.shownPixel x y = Colour.ofBit b)

/-- R166, R170: during the scan the draws since the last `clear` are the fills of the set cells below `IDX`, ascending; at
PRESENT those of all cells, and at SYNC the same followed by one `present()`. -/
def State.FillInv (s : State) : Prop :=
  (s.phase = .rscan → sinceClear (drawCmds s.trace) = fillsBelow s.cfg s.core s.idx) ∧
  (s.phase = .present → sinceClear (drawCmds s.trace) = fillsBelow s.cfg s.core s.cfg.cells) ∧
  (s.phase = .sync → sinceClear (drawCmds s.trace) = fillsBelow s.cfg s.core s.cfg.cells ++ [.present])

/-- The registers' invariant: every register stays within the values the spec gives it. -/
def State.Inv (s : State) : Prop :=
  s.Ready ∧ s.LinesInv ∧ s.CounterInv ∧ s.CauseInv ∧ s.SurfInv

/-! ### Control flow (R135) -/

/-- The successor table of R135: `p` is the phase before an operation and `q` after it, `n` the new `STEPCNT` and `i` the
new `IDX`. A hold (BOOT, SYNC) and a terminal phase are their own successors. -/
def Successor (cfg : Config) (n i : Nat) : Phase → Phase → Prop
  | .boot, q => q = .boot ∨ q = .sample ∨ q = .off ∨ q = .halt
  | .sample, q => q = .press
  | .press, q => q = .release ∨ q = .halt
  | .release, q => q = .step ∨ q = .halt
  | .step, q => (n < cfg.frameBudget ∧ q = .step) ∨ (n = cfg.frameBudget ∧ q = .tick) ∨ q = .halt
  | .tick, q => q = .rclear ∨ q = .halt
  | .rclear, q => q = .rscan ∨ q = .halt
  | .rscan, q => (i < cfg.cells ∧ q = .rscan) ∨ (i = cfg.cells ∧ q = .present)
  | .present, q => q = .sync
  | .sync, q => q = .sync ∨ q = .sample
  | .off, q => q = .off
  | .halt, q => q = .halt

/-! ### Frames (R136, R145) -/

/-- The `key_event` a keymap result gives rise to (R121, R122). -/
def keyEvents (r : Option Key) (pressed : Bool) : List Event :=
  match r with
  | none => []
  | some k => [.core (.keyEvent k pressed)]

/-- The core commands of a frame that does not fault (R145): `v` is its sample, `prev` the sample before. -/
def frameCmds (cfg : Config) (v prev : Lines) : List CoreCmd :=
  coreCmds (keyEvents (cfg.km (cfg.newlyPressed v prev)) true ++ keyEvents (cfg.km (cfg.newlyReleased v prev)) false) ++
  List.replicate cfg.frameBudget .step ++ [.tickTimers, .readDisplay]

/-- The core completes each of these commands, sent in turn, and faults on none. -/
def Core.accepts (cfg : Config) (cs : List CoreCmd) (k : Core) : Bool :=
  match cs with
  | [] => true
  | c :: rest => (k.apply cfg c).completes && !(k.apply cfg c).fault && (k.apply cfg c).core.accepts cfg rest

/-- The core after these commands. -/
def Core.after (cfg : Config) (cs : List CoreCmd) (k : Core) : Core :=
  match cs with
  | [] => k
  | c :: rest => (k.apply cfg c).core.after cfg rest

/-- R145: the trace of one frame that does not fault. `v` is its sample, `prev` the sample before, `k` the core whose
PixelBuffer it renders. -/
def frameTrace (cfg : Config) (v prev : Lines) (k : Core) : List Event :=
  [.sample v] ++ keyEvents (cfg.km (cfg.newlyPressed v prev)) true ++
  keyEvents (cfg.km (cfg.newlyReleased v prev)) false ++
  List.replicate cfg.frameBudget (.core .step) ++
  [.core .tickTimers, .core .readDisplay, .draw (.clear .bg)] ++ (fillsBelow cfg k cfg.cells).map Event.draw ++
  [.draw .present, .vsync]

/-- The number of operations of a frame (R136). -/
def frameLength (cfg : Config) : Nat := cfg.frameBudget + cfg.cells + 7

/-- The host port after `n` steps. -/
def HostPort.after (h : HostPort) (n : Nat) : HostPort :=
  match n with
  | 0 => h
  | n + 1 => h.advance.after n

/-- `rst` is asserted at none of the next `n` steps. -/
def HostPort.NoReset (h : HostPort) (n : Nat) : Prop := ∀ k, k < n → (h.after k).now.rst = false

/-! ### The host's signals, one changed at a time (R201) -/

/-- The state with other key lines. -/
def State.withKeys (s : State) (v : Lines) : State := s.setHost { s.host with now := { s.host.now with keys := v } }

/-- The state with another boot input. -/
def State.withBoot (s : State) (b : Option BootInput) : State :=
  s.setHost { s.host with now := { s.host.now with boot := b } }

/-- The state with another `vsync`. -/
def State.withVsync (s : State) (v : Bool) : State := s.setHost { s.host with now := { s.host.now with vsync := v } }

/-- An outcome with a function applied to its next state. -/
def mapNext (g : State → State) : Host.Outcome State Fault Refusal → Host.Outcome State Fault Refusal
  | .next s => .next (g s)
  | .fault f => .fault f
  | .refused r => .refused r

/-! ### The keymap as a priority encoder (R115) -/

/-- The request vector `r`: `r[p] = v[hline_p]`, entry 0 at bit 0. -/
def requests (table : List KeyEntry) (v : Lines) : Nat :=
  match table with
  | [] => 0
  | e :: rest => (v.testBit e.hline).toNat + 2 * requests rest v

/-- The index of the least significant 1 among the low `n` bits of `r`, counting from `q`. -/
def leastOne (n q r : Nat) : Nat :=
  match n with
  | 0 => q
  | n + 1 => if r % 2 = 1 then q else leastOne n (q + 1) (r / 2)

/-- R115: `valid = (r ≠ 0)`, `q` the least significant 1 of `r`, `lkey = lkey_q`. -/
def kmEncoder (cfg : Config) (v : Lines) : Option Key :=
  let r := requests cfg.keymap v
  if r = 0 then none else (cfg.keymap[leastOne cfg.keymap.length 0 r]?).map KeyEntry.lkey

end Sys2Proof.Machine
end

