-- ==== Sys2Proof/Laws/State.lean ====
section
/-! SUPPORT. One lemma per field of State and named update, so that no later proof unfolds a record update; then the
same for the operations built from them. -/

namespace Sys2Proof.Machine

/-! ### goto -/

@[simp] theorem State.goto_cfg (s : State) (p : Phase) : (s.goto p).cfg = s.cfg := rfl
@[simp] theorem State.goto_phase (s : State) (p : Phase) : (s.goto p).phase = p := rfl
@[simp] theorem State.goto_prev (s : State) (p : Phase) : (s.goto p).prev = s.prev := rfl
@[simp] theorem State.goto_down (s : State) (p : Phase) : (s.goto p).down = s.down := rfl
@[simp] theorem State.goto_up (s : State) (p : Phase) : (s.goto p).up = s.up := rfl
@[simp] theorem State.goto_stepcnt (s : State) (p : Phase) : (s.goto p).stepcnt = s.stepcnt := rfl
@[simp] theorem State.goto_idx (s : State) (p : Phase) : (s.goto p).idx = s.idx := rfl
@[simp] theorem State.goto_cause (s : State) (p : Phase) : (s.goto p).cause = s.cause := rfl
@[simp] theorem State.goto_surf (s : State) (p : Phase) : (s.goto p).surf = s.surf := rfl
@[simp] theorem State.goto_core (s : State) (p : Phase) : (s.goto p).core = s.core := rfl
@[simp] theorem State.goto_host (s : State) (p : Phase) : (s.goto p).host = s.host := rfl
@[simp] theorem State.goto_shown (s : State) (p : Phase) : (s.goto p).shown = s.shown := rfl
@[simp] theorem State.goto_trace (s : State) (p : Phase) : (s.goto p).trace = s.trace := rfl
@[simp] theorem State.goto_inFlight (s : State) (p : Phase) : (s.goto p).inFlight = s.inFlight := rfl
@[simp] theorem State.goto_cmdIn (s : State) (p : Phase) : (s.goto p).cmdIn = s.cmdIn := rfl
@[simp] theorem State.goto_kmOut (s : State) (p : Phase) : (s.goto p).kmOut = s.kmOut := rfl

/-! ### setLines -/

@[simp] theorem State.setLines_cfg (s : State) (d u v : Lines) : (s.setLines d u v).cfg = s.cfg := rfl
@[simp] theorem State.setLines_phase (s : State) (d u v : Lines) : (s.setLines d u v).phase = s.phase := rfl
@[simp] theorem State.setLines_prev (s : State) (d u v : Lines) : (s.setLines d u v).prev = v := rfl
@[simp] theorem State.setLines_down (s : State) (d u v : Lines) : (s.setLines d u v).down = d := rfl
@[simp] theorem State.setLines_up (s : State) (d u v : Lines) : (s.setLines d u v).up = u := rfl
@[simp] theorem State.setLines_stepcnt (s : State) (d u v : Lines) : (s.setLines d u v).stepcnt = s.stepcnt := rfl
@[simp] theorem State.setLines_idx (s : State) (d u v : Lines) : (s.setLines d u v).idx = s.idx := rfl
@[simp] theorem State.setLines_cause (s : State) (d u v : Lines) : (s.setLines d u v).cause = s.cause := rfl
@[simp] theorem State.setLines_surf (s : State) (d u v : Lines) : (s.setLines d u v).surf = s.surf := rfl
@[simp] theorem State.setLines_core (s : State) (d u v : Lines) : (s.setLines d u v).core = s.core := rfl
@[simp] theorem State.setLines_host (s : State) (d u v : Lines) : (s.setLines d u v).host = s.host := rfl
@[simp] theorem State.setLines_shown (s : State) (d u v : Lines) : (s.setLines d u v).shown = s.shown := rfl
@[simp] theorem State.setLines_trace (s : State) (d u v : Lines) : (s.setLines d u v).trace = s.trace := rfl
@[simp] theorem State.setLines_inFlight (s : State) (d u v : Lines) : (s.setLines d u v).inFlight = s.inFlight := rfl
@[simp] theorem State.setLines_cmdIn (s : State) (d u v : Lines) : (s.setLines d u v).cmdIn = s.cmdIn := rfl
@[simp] theorem State.setLines_kmOut (s : State) (d u v : Lines) : (s.setLines d u v).kmOut = s.kmOut := rfl

/-! ### setStepcnt -/

@[simp] theorem State.setStepcnt_cfg (s : State) (n : Nat) : (s.setStepcnt n).cfg = s.cfg := rfl
@[simp] theorem State.setStepcnt_phase (s : State) (n : Nat) : (s.setStepcnt n).phase = s.phase := rfl
@[simp] theorem State.setStepcnt_prev (s : State) (n : Nat) : (s.setStepcnt n).prev = s.prev := rfl
@[simp] theorem State.setStepcnt_down (s : State) (n : Nat) : (s.setStepcnt n).down = s.down := rfl
@[simp] theorem State.setStepcnt_up (s : State) (n : Nat) : (s.setStepcnt n).up = s.up := rfl
@[simp] theorem State.setStepcnt_stepcnt (s : State) (n : Nat) : (s.setStepcnt n).stepcnt = n := rfl
@[simp] theorem State.setStepcnt_idx (s : State) (n : Nat) : (s.setStepcnt n).idx = s.idx := rfl
@[simp] theorem State.setStepcnt_cause (s : State) (n : Nat) : (s.setStepcnt n).cause = s.cause := rfl
@[simp] theorem State.setStepcnt_surf (s : State) (n : Nat) : (s.setStepcnt n).surf = s.surf := rfl
@[simp] theorem State.setStepcnt_core (s : State) (n : Nat) : (s.setStepcnt n).core = s.core := rfl
@[simp] theorem State.setStepcnt_host (s : State) (n : Nat) : (s.setStepcnt n).host = s.host := rfl
@[simp] theorem State.setStepcnt_shown (s : State) (n : Nat) : (s.setStepcnt n).shown = s.shown := rfl
@[simp] theorem State.setStepcnt_trace (s : State) (n : Nat) : (s.setStepcnt n).trace = s.trace := rfl
@[simp] theorem State.setStepcnt_inFlight (s : State) (n : Nat) : (s.setStepcnt n).inFlight = s.inFlight := rfl
@[simp] theorem State.setStepcnt_cmdIn (s : State) (n : Nat) : (s.setStepcnt n).cmdIn = s.cmdIn := rfl
@[simp] theorem State.setStepcnt_kmOut (s : State) (n : Nat) : (s.setStepcnt n).kmOut = s.kmOut := rfl

/-! ### setIdx -/

@[simp] theorem State.setIdx_cfg (s : State) (n : Nat) : (s.setIdx n).cfg = s.cfg := rfl
@[simp] theorem State.setIdx_phase (s : State) (n : Nat) : (s.setIdx n).phase = s.phase := rfl
@[simp] theorem State.setIdx_prev (s : State) (n : Nat) : (s.setIdx n).prev = s.prev := rfl
@[simp] theorem State.setIdx_down (s : State) (n : Nat) : (s.setIdx n).down = s.down := rfl
@[simp] theorem State.setIdx_up (s : State) (n : Nat) : (s.setIdx n).up = s.up := rfl
@[simp] theorem State.setIdx_stepcnt (s : State) (n : Nat) : (s.setIdx n).stepcnt = s.stepcnt := rfl
@[simp] theorem State.setIdx_idx (s : State) (n : Nat) : (s.setIdx n).idx = n := rfl
@[simp] theorem State.setIdx_cause (s : State) (n : Nat) : (s.setIdx n).cause = s.cause := rfl
@[simp] theorem State.setIdx_surf (s : State) (n : Nat) : (s.setIdx n).surf = s.surf := rfl
@[simp] theorem State.setIdx_core (s : State) (n : Nat) : (s.setIdx n).core = s.core := rfl
@[simp] theorem State.setIdx_host (s : State) (n : Nat) : (s.setIdx n).host = s.host := rfl
@[simp] theorem State.setIdx_shown (s : State) (n : Nat) : (s.setIdx n).shown = s.shown := rfl
@[simp] theorem State.setIdx_trace (s : State) (n : Nat) : (s.setIdx n).trace = s.trace := rfl
@[simp] theorem State.setIdx_inFlight (s : State) (n : Nat) : (s.setIdx n).inFlight = s.inFlight := rfl
@[simp] theorem State.setIdx_cmdIn (s : State) (n : Nat) : (s.setIdx n).cmdIn = s.cmdIn := rfl
@[simp] theorem State.setIdx_kmOut (s : State) (n : Nat) : (s.setIdx n).kmOut = s.kmOut := rfl

/-! ### setCause -/

@[simp] theorem State.setCause_cfg (s : State) (c : Cause) : (s.setCause c).cfg = s.cfg := rfl
@[simp] theorem State.setCause_phase (s : State) (c : Cause) : (s.setCause c).phase = s.phase := rfl
@[simp] theorem State.setCause_prev (s : State) (c : Cause) : (s.setCause c).prev = s.prev := rfl
@[simp] theorem State.setCause_down (s : State) (c : Cause) : (s.setCause c).down = s.down := rfl
@[simp] theorem State.setCause_up (s : State) (c : Cause) : (s.setCause c).up = s.up := rfl
@[simp] theorem State.setCause_stepcnt (s : State) (c : Cause) : (s.setCause c).stepcnt = s.stepcnt := rfl
@[simp] theorem State.setCause_idx (s : State) (c : Cause) : (s.setCause c).idx = s.idx := rfl
@[simp] theorem State.setCause_cause (s : State) (c : Cause) : (s.setCause c).cause = c := rfl
@[simp] theorem State.setCause_surf (s : State) (c : Cause) : (s.setCause c).surf = s.surf := rfl
@[simp] theorem State.setCause_core (s : State) (c : Cause) : (s.setCause c).core = s.core := rfl
@[simp] theorem State.setCause_host (s : State) (c : Cause) : (s.setCause c).host = s.host := rfl
@[simp] theorem State.setCause_shown (s : State) (c : Cause) : (s.setCause c).shown = s.shown := rfl
@[simp] theorem State.setCause_trace (s : State) (c : Cause) : (s.setCause c).trace = s.trace := rfl
@[simp] theorem State.setCause_inFlight (s : State) (c : Cause) : (s.setCause c).inFlight = s.inFlight := rfl
@[simp] theorem State.setCause_cmdIn (s : State) (c : Cause) : (s.setCause c).cmdIn = s.cmdIn := rfl
@[simp] theorem State.setCause_kmOut (s : State) (c : Cause) : (s.setCause c).kmOut = s.kmOut := rfl

/-! ### setSurf -/

@[simp] theorem State.setSurf_cfg (s : State) (m : Memory) : (s.setSurf m).cfg = s.cfg := rfl
@[simp] theorem State.setSurf_phase (s : State) (m : Memory) : (s.setSurf m).phase = s.phase := rfl
@[simp] theorem State.setSurf_prev (s : State) (m : Memory) : (s.setSurf m).prev = s.prev := rfl
@[simp] theorem State.setSurf_down (s : State) (m : Memory) : (s.setSurf m).down = s.down := rfl
@[simp] theorem State.setSurf_up (s : State) (m : Memory) : (s.setSurf m).up = s.up := rfl
@[simp] theorem State.setSurf_stepcnt (s : State) (m : Memory) : (s.setSurf m).stepcnt = s.stepcnt := rfl
@[simp] theorem State.setSurf_idx (s : State) (m : Memory) : (s.setSurf m).idx = s.idx := rfl
@[simp] theorem State.setSurf_cause (s : State) (m : Memory) : (s.setSurf m).cause = s.cause := rfl
@[simp] theorem State.setSurf_surf (s : State) (m : Memory) : (s.setSurf m).surf = m := rfl
@[simp] theorem State.setSurf_core (s : State) (m : Memory) : (s.setSurf m).core = s.core := rfl
@[simp] theorem State.setSurf_host (s : State) (m : Memory) : (s.setSurf m).host = s.host := rfl
@[simp] theorem State.setSurf_shown (s : State) (m : Memory) : (s.setSurf m).shown = s.shown := rfl
@[simp] theorem State.setSurf_trace (s : State) (m : Memory) : (s.setSurf m).trace = s.trace := rfl
@[simp] theorem State.setSurf_inFlight (s : State) (m : Memory) : (s.setSurf m).inFlight = s.inFlight := rfl
@[simp] theorem State.setSurf_cmdIn (s : State) (m : Memory) : (s.setSurf m).cmdIn = s.cmdIn := rfl
@[simp] theorem State.setSurf_kmOut (s : State) (m : Memory) : (s.setSurf m).kmOut = s.kmOut := rfl

/-! ### setShown -/

@[simp] theorem State.setShown_cfg (s : State) (m : Memory) : (s.setShown m).cfg = s.cfg := rfl
@[simp] theorem State.setShown_phase (s : State) (m : Memory) : (s.setShown m).phase = s.phase := rfl
@[simp] theorem State.setShown_prev (s : State) (m : Memory) : (s.setShown m).prev = s.prev := rfl
@[simp] theorem State.setShown_down (s : State) (m : Memory) : (s.setShown m).down = s.down := rfl
@[simp] theorem State.setShown_up (s : State) (m : Memory) : (s.setShown m).up = s.up := rfl
@[simp] theorem State.setShown_stepcnt (s : State) (m : Memory) : (s.setShown m).stepcnt = s.stepcnt := rfl
@[simp] theorem State.setShown_idx (s : State) (m : Memory) : (s.setShown m).idx = s.idx := rfl
@[simp] theorem State.setShown_cause (s : State) (m : Memory) : (s.setShown m).cause = s.cause := rfl
@[simp] theorem State.setShown_surf (s : State) (m : Memory) : (s.setShown m).surf = s.surf := rfl
@[simp] theorem State.setShown_core (s : State) (m : Memory) : (s.setShown m).core = s.core := rfl
@[simp] theorem State.setShown_host (s : State) (m : Memory) : (s.setShown m).host = s.host := rfl
@[simp] theorem State.setShown_shown (s : State) (m : Memory) : (s.setShown m).shown = m := rfl
@[simp] theorem State.setShown_trace (s : State) (m : Memory) : (s.setShown m).trace = s.trace := rfl
@[simp] theorem State.setShown_inFlight (s : State) (m : Memory) : (s.setShown m).inFlight = s.inFlight := rfl
@[simp] theorem State.setShown_cmdIn (s : State) (m : Memory) : (s.setShown m).cmdIn = s.cmdIn := rfl
@[simp] theorem State.setShown_kmOut (s : State) (m : Memory) : (s.setShown m).kmOut = s.kmOut := rfl

/-! ### setCore -/

@[simp] theorem State.setCore_cfg (s : State) (k : Core) : (s.setCore k).cfg = s.cfg := rfl
@[simp] theorem State.setCore_phase (s : State) (k : Core) : (s.setCore k).phase = s.phase := rfl
@[simp] theorem State.setCore_prev (s : State) (k : Core) : (s.setCore k).prev = s.prev := rfl
@[simp] theorem State.setCore_down (s : State) (k : Core) : (s.setCore k).down = s.down := rfl
@[simp] theorem State.setCore_up (s : State) (k : Core) : (s.setCore k).up = s.up := rfl
@[simp] theorem State.setCore_stepcnt (s : State) (k : Core) : (s.setCore k).stepcnt = s.stepcnt := rfl
@[simp] theorem State.setCore_idx (s : State) (k : Core) : (s.setCore k).idx = s.idx := rfl
@[simp] theorem State.setCore_cause (s : State) (k : Core) : (s.setCore k).cause = s.cause := rfl
@[simp] theorem State.setCore_surf (s : State) (k : Core) : (s.setCore k).surf = s.surf := rfl
@[simp] theorem State.setCore_core (s : State) (k : Core) : (s.setCore k).core = k := rfl
@[simp] theorem State.setCore_host (s : State) (k : Core) : (s.setCore k).host = s.host := rfl
@[simp] theorem State.setCore_shown (s : State) (k : Core) : (s.setCore k).shown = s.shown := rfl
@[simp] theorem State.setCore_trace (s : State) (k : Core) : (s.setCore k).trace = s.trace := rfl
@[simp] theorem State.setCore_inFlight (s : State) (k : Core) : (s.setCore k).inFlight = s.inFlight := rfl
@[simp] theorem State.setCore_cmdIn (s : State) (k : Core) : (s.setCore k).cmdIn = s.cmdIn := rfl
@[simp] theorem State.setCore_kmOut (s : State) (k : Core) : (s.setCore k).kmOut = s.kmOut := rfl

/-! ### log -/

@[simp] theorem State.log_cfg (s : State) (e : Event) : (s.log e).cfg = s.cfg := rfl
@[simp] theorem State.log_phase (s : State) (e : Event) : (s.log e).phase = s.phase := rfl
@[simp] theorem State.log_prev (s : State) (e : Event) : (s.log e).prev = s.prev := rfl
@[simp] theorem State.log_down (s : State) (e : Event) : (s.log e).down = s.down := rfl
@[simp] theorem State.log_up (s : State) (e : Event) : (s.log e).up = s.up := rfl
@[simp] theorem State.log_stepcnt (s : State) (e : Event) : (s.log e).stepcnt = s.stepcnt := rfl
@[simp] theorem State.log_idx (s : State) (e : Event) : (s.log e).idx = s.idx := rfl
@[simp] theorem State.log_cause (s : State) (e : Event) : (s.log e).cause = s.cause := rfl
@[simp] theorem State.log_surf (s : State) (e : Event) : (s.log e).surf = s.surf := rfl
@[simp] theorem State.log_core (s : State) (e : Event) : (s.log e).core = s.core := rfl
@[simp] theorem State.log_host (s : State) (e : Event) : (s.log e).host = s.host := rfl
@[simp] theorem State.log_shown (s : State) (e : Event) : (s.log e).shown = s.shown := rfl
@[simp] theorem State.log_trace (s : State) (e : Event) : (s.log e).trace = s.trace ++ [e] := rfl
@[simp] theorem State.log_inFlight (s : State) (e : Event) : (s.log e).inFlight = s.inFlight := rfl
@[simp] theorem State.log_cmdIn (s : State) (e : Event) : (s.log e).cmdIn = s.cmdIn := rfl
@[simp] theorem State.log_kmOut (s : State) (e : Event) : (s.log e).kmOut = s.kmOut := rfl

/-! ### setInFlight -/

@[simp] theorem State.setInFlight_cfg (s : State) (c : Option CoreCmd) : (s.setInFlight c).cfg = s.cfg := rfl
@[simp] theorem State.setInFlight_phase (s : State) (c : Option CoreCmd) : (s.setInFlight c).phase = s.phase := rfl
@[simp] theorem State.setInFlight_prev (s : State) (c : Option CoreCmd) : (s.setInFlight c).prev = s.prev := rfl
@[simp] theorem State.setInFlight_down (s : State) (c : Option CoreCmd) : (s.setInFlight c).down = s.down := rfl
@[simp] theorem State.setInFlight_up (s : State) (c : Option CoreCmd) : (s.setInFlight c).up = s.up := rfl
@[simp] theorem State.setInFlight_stepcnt (s : State) (c : Option CoreCmd) : (s.setInFlight c).stepcnt = s.stepcnt := rfl
@[simp] theorem State.setInFlight_idx (s : State) (c : Option CoreCmd) : (s.setInFlight c).idx = s.idx := rfl
@[simp] theorem State.setInFlight_cause (s : State) (c : Option CoreCmd) : (s.setInFlight c).cause = s.cause := rfl
@[simp] theorem State.setInFlight_surf (s : State) (c : Option CoreCmd) : (s.setInFlight c).surf = s.surf := rfl
@[simp] theorem State.setInFlight_core (s : State) (c : Option CoreCmd) : (s.setInFlight c).core = s.core := rfl
@[simp] theorem State.setInFlight_host (s : State) (c : Option CoreCmd) : (s.setInFlight c).host = s.host := rfl
@[simp] theorem State.setInFlight_shown (s : State) (c : Option CoreCmd) : (s.setInFlight c).shown = s.shown := rfl
@[simp] theorem State.setInFlight_trace (s : State) (c : Option CoreCmd) : (s.setInFlight c).trace = s.trace := rfl
@[simp] theorem State.setInFlight_inFlight (s : State) (c : Option CoreCmd) : (s.setInFlight c).inFlight = c := rfl
@[simp] theorem State.setInFlight_cmdIn (s : State) (c : Option CoreCmd) : (s.setInFlight c).cmdIn = s.cmdIn := rfl
@[simp] theorem State.setInFlight_kmOut (s : State) (c : Option CoreCmd) : (s.setInFlight c).kmOut = s.kmOut := rfl

/-! ### setCmdIn -/

@[simp] theorem State.setCmdIn_cfg (s : State) (w : Option (Format × Nat)) : (s.setCmdIn w).cfg = s.cfg := rfl
@[simp] theorem State.setCmdIn_phase (s : State) (w : Option (Format × Nat)) : (s.setCmdIn w).phase = s.phase := rfl
@[simp] theorem State.setCmdIn_prev (s : State) (w : Option (Format × Nat)) : (s.setCmdIn w).prev = s.prev := rfl
@[simp] theorem State.setCmdIn_down (s : State) (w : Option (Format × Nat)) : (s.setCmdIn w).down = s.down := rfl
@[simp] theorem State.setCmdIn_up (s : State) (w : Option (Format × Nat)) : (s.setCmdIn w).up = s.up := rfl
@[simp] theorem State.setCmdIn_stepcnt (s : State) (w : Option (Format × Nat)) : (s.setCmdIn w).stepcnt = s.stepcnt := rfl
@[simp] theorem State.setCmdIn_idx (s : State) (w : Option (Format × Nat)) : (s.setCmdIn w).idx = s.idx := rfl
@[simp] theorem State.setCmdIn_cause (s : State) (w : Option (Format × Nat)) : (s.setCmdIn w).cause = s.cause := rfl
@[simp] theorem State.setCmdIn_surf (s : State) (w : Option (Format × Nat)) : (s.setCmdIn w).surf = s.surf := rfl
@[simp] theorem State.setCmdIn_core (s : State) (w : Option (Format × Nat)) : (s.setCmdIn w).core = s.core := rfl
@[simp] theorem State.setCmdIn_host (s : State) (w : Option (Format × Nat)) : (s.setCmdIn w).host = s.host := rfl
@[simp] theorem State.setCmdIn_shown (s : State) (w : Option (Format × Nat)) : (s.setCmdIn w).shown = s.shown := rfl
@[simp] theorem State.setCmdIn_trace (s : State) (w : Option (Format × Nat)) : (s.setCmdIn w).trace = s.trace := rfl
@[simp] theorem State.setCmdIn_inFlight (s : State) (w : Option (Format × Nat)) : (s.setCmdIn w).inFlight = s.inFlight := rfl
@[simp] theorem State.setCmdIn_cmdIn (s : State) (w : Option (Format × Nat)) : (s.setCmdIn w).cmdIn = w := rfl
@[simp] theorem State.setCmdIn_kmOut (s : State) (w : Option (Format × Nat)) : (s.setCmdIn w).kmOut = s.kmOut := rfl

/-! ### setKmOut -/

@[simp] theorem State.setKmOut_cfg (s : State) (w : BitVec 5) : (s.setKmOut w).cfg = s.cfg := rfl
@[simp] theorem State.setKmOut_phase (s : State) (w : BitVec 5) : (s.setKmOut w).phase = s.phase := rfl
@[simp] theorem State.setKmOut_prev (s : State) (w : BitVec 5) : (s.setKmOut w).prev = s.prev := rfl
@[simp] theorem State.setKmOut_down (s : State) (w : BitVec 5) : (s.setKmOut w).down = s.down := rfl
@[simp] theorem State.setKmOut_up (s : State) (w : BitVec 5) : (s.setKmOut w).up = s.up := rfl
@[simp] theorem State.setKmOut_stepcnt (s : State) (w : BitVec 5) : (s.setKmOut w).stepcnt = s.stepcnt := rfl
@[simp] theorem State.setKmOut_idx (s : State) (w : BitVec 5) : (s.setKmOut w).idx = s.idx := rfl
@[simp] theorem State.setKmOut_cause (s : State) (w : BitVec 5) : (s.setKmOut w).cause = s.cause := rfl
@[simp] theorem State.setKmOut_surf (s : State) (w : BitVec 5) : (s.setKmOut w).surf = s.surf := rfl
@[simp] theorem State.setKmOut_core (s : State) (w : BitVec 5) : (s.setKmOut w).core = s.core := rfl
@[simp] theorem State.setKmOut_host (s : State) (w : BitVec 5) : (s.setKmOut w).host = s.host := rfl
@[simp] theorem State.setKmOut_shown (s : State) (w : BitVec 5) : (s.setKmOut w).shown = s.shown := rfl
@[simp] theorem State.setKmOut_trace (s : State) (w : BitVec 5) : (s.setKmOut w).trace = s.trace := rfl
@[simp] theorem State.setKmOut_inFlight (s : State) (w : BitVec 5) : (s.setKmOut w).inFlight = s.inFlight := rfl
@[simp] theorem State.setKmOut_cmdIn (s : State) (w : BitVec 5) : (s.setKmOut w).cmdIn = s.cmdIn := rfl
@[simp] theorem State.setKmOut_kmOut (s : State) (w : BitVec 5) : (s.setKmOut w).kmOut = w := rfl

/-! ### setHost -/

@[simp] theorem State.setHost_cfg (s : State) (h : HostPort) : (s.setHost h).cfg = s.cfg := rfl
@[simp] theorem State.setHost_phase (s : State) (h : HostPort) : (s.setHost h).phase = s.phase := rfl
@[simp] theorem State.setHost_prev (s : State) (h : HostPort) : (s.setHost h).prev = s.prev := rfl
@[simp] theorem State.setHost_down (s : State) (h : HostPort) : (s.setHost h).down = s.down := rfl
@[simp] theorem State.setHost_up (s : State) (h : HostPort) : (s.setHost h).up = s.up := rfl
@[simp] theorem State.setHost_stepcnt (s : State) (h : HostPort) : (s.setHost h).stepcnt = s.stepcnt := rfl
@[simp] theorem State.setHost_idx (s : State) (h : HostPort) : (s.setHost h).idx = s.idx := rfl
@[simp] theorem State.setHost_cause (s : State) (h : HostPort) : (s.setHost h).cause = s.cause := rfl
@[simp] theorem State.setHost_surf (s : State) (h : HostPort) : (s.setHost h).surf = s.surf := rfl
@[simp] theorem State.setHost_core (s : State) (h : HostPort) : (s.setHost h).core = s.core := rfl
@[simp] theorem State.setHost_host (s : State) (h : HostPort) : (s.setHost h).host = h := rfl
@[simp] theorem State.setHost_shown (s : State) (h : HostPort) : (s.setHost h).shown = s.shown := rfl
@[simp] theorem State.setHost_trace (s : State) (h : HostPort) : (s.setHost h).trace = s.trace := rfl
@[simp] theorem State.setHost_inFlight (s : State) (h : HostPort) : (s.setHost h).inFlight = s.inFlight := rfl
@[simp] theorem State.setHost_cmdIn (s : State) (h : HostPort) : (s.setHost h).cmdIn = s.cmdIn := rfl
@[simp] theorem State.setHost_kmOut (s : State) (h : HostPort) : (s.setHost h).kmOut = s.kmOut := rfl

/-! ### raise (R217, R218) -/

@[simp] theorem raise_cfg (c : Cause) (s : State) : (raise c s).cfg = s.cfg := rfl
@[simp] theorem raise_phase (c : Cause) (s : State) : (raise c s).phase = c.terminal := rfl
@[simp] theorem raise_prev (c : Cause) (s : State) : (raise c s).prev = s.prev := rfl
@[simp] theorem raise_down (c : Cause) (s : State) : (raise c s).down = s.down := rfl
@[simp] theorem raise_up (c : Cause) (s : State) : (raise c s).up = s.up := rfl
@[simp] theorem raise_stepcnt (c : Cause) (s : State) : (raise c s).stepcnt = s.stepcnt := rfl
@[simp] theorem raise_idx (c : Cause) (s : State) : (raise c s).idx = s.idx := rfl
@[simp] theorem raise_cause (c : Cause) (s : State) : (raise c s).cause = c := rfl
@[simp] theorem raise_surf (c : Cause) (s : State) : (raise c s).surf = s.surf := rfl
@[simp] theorem raise_core (c : Cause) (s : State) : (raise c s).core = s.core := rfl
@[simp] theorem raise_host (c : Cause) (s : State) : (raise c s).host = s.host := rfl
@[simp] theorem raise_shown (c : Cause) (s : State) : (raise c s).shown = s.shown := rfl
@[simp] theorem raise_trace (c : Cause) (s : State) : (raise c s).trace = s.trace := rfl
@[simp] theorem raise_inFlight (c : Cause) (s : State) : (raise c s).inFlight = s.inFlight := rfl
@[simp] theorem raise_cmdIn (c : Cause) (s : State) : (raise c s).cmdIn = s.cmdIn := rfl
@[simp] theorem raise_kmOut (c : Cause) (s : State) : (raise c s).kmOut = s.kmOut := rfl

/-! ### emit (R199) -/

@[simp] theorem emit_cfg (d : DrawCmd) (s : State) : (emit d s).cfg = s.cfg := rfl
@[simp] theorem emit_phase (d : DrawCmd) (s : State) : (emit d s).phase = s.phase := rfl
@[simp] theorem emit_prev (d : DrawCmd) (s : State) : (emit d s).prev = s.prev := rfl
@[simp] theorem emit_down (d : DrawCmd) (s : State) : (emit d s).down = s.down := rfl
@[simp] theorem emit_up (d : DrawCmd) (s : State) : (emit d s).up = s.up := rfl
@[simp] theorem emit_stepcnt (d : DrawCmd) (s : State) : (emit d s).stepcnt = s.stepcnt := rfl
@[simp] theorem emit_idx (d : DrawCmd) (s : State) : (emit d s).idx = s.idx := rfl
@[simp] theorem emit_cause (d : DrawCmd) (s : State) : (emit d s).cause = s.cause := rfl
@[simp] theorem emit_surf (d : DrawCmd) (s : State) : (emit d s).surf = drawOn s.cfg d s.surf := rfl
@[simp] theorem emit_core (d : DrawCmd) (s : State) : (emit d s).core = s.core := rfl
@[simp] theorem emit_host (d : DrawCmd) (s : State) : (emit d s).host = s.host := rfl
@[simp] theorem emit_shown (d : DrawCmd) (s : State) : (emit d s).shown = displayAfter d s.surf s.shown := rfl
@[simp] theorem emit_trace (d : DrawCmd) (s : State) : (emit d s).trace = s.trace ++ [.draw d] := rfl
@[simp] theorem emit_inFlight (d : DrawCmd) (s : State) : (emit d s).inFlight = s.inFlight := rfl
@[simp] theorem emit_cmdIn (d : DrawCmd) (s : State) : (emit d s).cmdIn = s.cmdIn := rfl
@[simp] theorem emit_kmOut (d : DrawCmd) (s : State) : (emit d s).kmOut = s.kmOut := rfl

/-! ### A command sent to the core (R190) -/

@[simp] theorem State.sent_cfg (s : State) (c : CoreCmd) : (s.sent c).cfg = s.cfg := rfl
@[simp] theorem State.sent_phase (s : State) (c : CoreCmd) : (s.sent c).phase = s.phase := rfl
@[simp] theorem State.sent_prev (s : State) (c : CoreCmd) : (s.sent c).prev = s.prev := rfl
@[simp] theorem State.sent_down (s : State) (c : CoreCmd) : (s.sent c).down = s.down := rfl
@[simp] theorem State.sent_up (s : State) (c : CoreCmd) : (s.sent c).up = s.up := rfl
@[simp] theorem State.sent_stepcnt (s : State) (c : CoreCmd) : (s.sent c).stepcnt = s.stepcnt := rfl
@[simp] theorem State.sent_idx (s : State) (c : CoreCmd) : (s.sent c).idx = s.idx := rfl
@[simp] theorem State.sent_cause (s : State) (c : CoreCmd) : (s.sent c).cause = s.cause := rfl
@[simp] theorem State.sent_surf (s : State) (c : CoreCmd) : (s.sent c).surf = s.surf := rfl
@[simp] theorem State.sent_core (s : State) (c : CoreCmd) : (s.sent c).core = (s.reply c).core := rfl
@[simp] theorem State.sent_host (s : State) (c : CoreCmd) : (s.sent c).host = s.host := rfl
@[simp] theorem State.sent_shown (s : State) (c : CoreCmd) : (s.sent c).shown = s.shown := rfl
@[simp] theorem State.sent_trace (s : State) (c : CoreCmd) : (s.sent c).trace = s.trace ++ [.core c] := rfl
@[simp] theorem State.sent_inFlight (s : State) (c : CoreCmd) : (s.sent c).inFlight = s.inFlight := rfl
@[simp] theorem State.sent_cmdIn (s : State) (c : CoreCmd) : (s.sent c).cmdIn = s.cmdIn := rfl
@[simp] theorem State.sent_kmOut (s : State) (c : CoreCmd) : (s.sent c).kmOut = s.kmOut := rfl

/-! ### The host's signals moving on -/

@[simp] theorem State.advance_cfg (s : State) : s.advance.cfg = s.cfg := rfl
@[simp] theorem State.advance_phase (s : State) : s.advance.phase = s.phase := rfl
@[simp] theorem State.advance_prev (s : State) : s.advance.prev = s.prev := rfl
@[simp] theorem State.advance_down (s : State) : s.advance.down = s.down := rfl
@[simp] theorem State.advance_up (s : State) : s.advance.up = s.up := rfl
@[simp] theorem State.advance_stepcnt (s : State) : s.advance.stepcnt = s.stepcnt := rfl
@[simp] theorem State.advance_idx (s : State) : s.advance.idx = s.idx := rfl
@[simp] theorem State.advance_cause (s : State) : s.advance.cause = s.cause := rfl
@[simp] theorem State.advance_surf (s : State) : s.advance.surf = s.surf := rfl
@[simp] theorem State.advance_core (s : State) : s.advance.core = s.core := rfl
@[simp] theorem State.advance_host (s : State) : s.advance.host = s.host.advance := rfl
@[simp] theorem State.advance_shown (s : State) : s.advance.shown = s.shown := rfl
@[simp] theorem State.advance_trace (s : State) : s.advance.trace = s.trace := rfl
@[simp] theorem State.advance_inFlight (s : State) : s.advance.inFlight = s.inFlight := rfl
@[simp] theorem State.advance_cmdIn (s : State) : s.advance.cmdIn = s.cmdIn := rfl
@[simp] theorem State.advance_kmOut (s : State) : s.advance.kmOut = s.kmOut := rfl

/-! ### Reset (R36, R240 to R242) -/

@[simp] theorem hardReset_cfg (s : State) : (hardReset s).cfg = s.cfg := rfl
@[simp] theorem hardReset_phase (s : State) : (hardReset s).phase = .boot := rfl
@[simp] theorem hardReset_prev (s : State) : (hardReset s).prev = 0 := rfl
@[simp] theorem hardReset_down (s : State) : (hardReset s).down = 0 := rfl
@[simp] theorem hardReset_up (s : State) : (hardReset s).up = 0 := rfl
@[simp] theorem hardReset_stepcnt (s : State) : (hardReset s).stepcnt = 0 := rfl
@[simp] theorem hardReset_idx (s : State) : (hardReset s).idx = 0 := rfl
@[simp] theorem hardReset_cause (s : State) : (hardReset s).cause = .none := rfl
@[simp] theorem hardReset_surf (s : State) : (hardReset s).surf = ⟨.unspecified (2 * s.host.draws), []⟩ := rfl
@[simp] theorem hardReset_core (s : State) : (hardReset s).core = s.core.fresh := rfl
@[simp] theorem hardReset_host (s : State) : (hardReset s).host = s.host := rfl
@[simp] theorem hardReset_shown (s : State) : (hardReset s).shown = ⟨.unspecified (2 * s.host.draws + 1), []⟩ := rfl
@[simp] theorem hardReset_trace (s : State) : (hardReset s).trace = [] := rfl
@[simp] theorem hardReset_inFlight (s : State) : (hardReset s).inFlight = none := rfl
@[simp] theorem hardReset_cmdIn (s : State) : (hardReset s).cmdIn = none := rfl
@[simp] theorem hardReset_kmOut (s : State) : (hardReset s).kmOut = 0 := rfl

end Sys2Proof.Machine
end

