-- ==== Sys2Proof/Laws/Memory.lean ====
section
/-! SUPPORT. The surface: a read after a write, every write keeps the canonical form, what a rectangle changes. -/

namespace Sys2Proof.Machine

/-! ### The cell list -/

/-- Listing a colour at an address changes what that address reads and nothing else. -/
theorem lookupCell_insertCell (a b : Nat) (c : Colour) (cells : List (Nat × Colour)) :
    lookupCell (insertCell a c cells) b = if b = a then some c else lookupCell cells b := by
  induction cells with
  | nil => simp [insertCell, lookupCell, eq_comm]
  | cons p rest ih =>
    unfold insertCell
    split
    · simp [lookupCell, eq_comm]
    · split
      · rename_i h; subst h; by_cases hb : b = p.1 <;> simp [lookupCell, hb, eq_comm]
      · rename_i hne
        simp only [lookupCell, ih]
        by_cases hb : b = a
        · subst hb; simp [hne]
        · simp [hb]

/-- Below the first listed address nothing is listed. -/
theorem lookupCell_none_of_lt {bg : Background} {cells : List (Nat × Colour)} :
    ∀ {lo a : Nat}, cellsWf bg lo cells = true → a < lo → lookupCell cells a = none := by
  induction cells with
  | nil => intros; rfl
  | cons p rest ih =>
    intro lo a h ha
    simp only [cellsWf, Bool.and_eq_true, decide_eq_true_eq] at h
    have : p.1 ≠ a := by omega
    simp [lookupCell, this, ih h.2 (by omega : a < p.1 + 1)]

/-- In a canonical list, erasing an address unlists it and nothing else. -/
theorem lookupCell_eraseCell {bg : Background} {cells : List (Nat × Colour)} (a b : Nat) :
    ∀ {lo : Nat}, cellsWf bg lo cells = true →
      lookupCell (eraseCell a cells) b = if b = a then none else lookupCell cells b := by
  induction cells with
  | nil => simp [eraseCell, lookupCell]
  | cons p rest ih =>
    intro lo h
    simp only [cellsWf, Bool.and_eq_true, decide_eq_true_eq] at h
    unfold eraseCell
    split
    · rename_i hp
      by_cases hb : b = a
      · subst hb; simp [lookupCell_none_of_lt h.2 (by omega : b < p.1 + 1)]
      · have : p.1 ≠ b := by omega
        simp [hb, lookupCell, this]
    · rename_i hp
      simp only [lookupCell, ih h.2]
      by_cases hb : b = a
      · subst hb; simp [hp]
      · simp [hb]

theorem cellsWf_insertCell {bg : Background} {a : Nat} {c : Colour} (hc : bg ≠ .painted c)
    {cells : List (Nat × Colour)} :
    ∀ {lo : Nat}, cellsWf bg lo cells = true → lo ≤ a → cellsWf bg lo (insertCell a c cells) = true := by
  induction cells with
  | nil => intro lo _ hlo; simp [insertCell, cellsWf, hc, hlo]
  | cons p rest ih =>
    intro lo h hlo
    simp only [cellsWf, Bool.and_eq_true, decide_eq_true_eq] at h
    unfold insertCell
    split
    · simp only [cellsWf, Bool.and_eq_true, decide_eq_true_eq]
      exact ⟨⟨hlo, hc⟩, ⟨by omega, h.1.2⟩, h.2⟩
    · split
      · rename_i hp
        simp only [cellsWf, Bool.and_eq_true, decide_eq_true_eq]
        exact ⟨⟨hlo, hc⟩, hp ▸ h.2⟩
      · simp only [cellsWf, Bool.and_eq_true, decide_eq_true_eq]
        exact ⟨h.1, ih h.2 (by omega)⟩

theorem cellsWf_mono {bg : Background} {cells : List (Nat × Colour)} {lo lo' : Nat}
    (h : cellsWf bg lo cells = true) (hl : lo' ≤ lo) : cellsWf bg lo' cells = true := by
  cases cells with
  | nil => rfl
  | cons p rest =>
    simp only [cellsWf, Bool.and_eq_true, decide_eq_true_eq] at h ⊢
    exact ⟨⟨by omega, h.1.2⟩, h.2⟩

theorem cellsWf_eraseCell {bg : Background} {a : Nat} {cells : List (Nat × Colour)} :
    ∀ {lo : Nat}, cellsWf bg lo cells = true → cellsWf bg lo (eraseCell a cells) = true := by
  induction cells with
  | nil => intros; rfl
  | cons p rest ih =>
    intro lo h
    simp only [cellsWf, Bool.and_eq_true, decide_eq_true_eq] at h
    unfold eraseCell
    split
    · exact cellsWf_mono h.2 (by omega)
    · simp only [cellsWf, Bool.and_eq_true, decide_eq_true_eq]
      exact ⟨h.1, ih h.2⟩

/-! ### Memory -/

@[simp] theorem Memory.write_background (m : Memory) (a : Nat) (c : Colour) :
    (m.write a c).background = m.background := by
  unfold Memory.write; split <;> rfl

/-- A write keeps the canonical form. -/
theorem Memory.write_wf {m : Memory} (h : m.wf = true) (a : Nat) (c : Colour) : (m.write a c).wf = true := by
  unfold Memory.write
  split
  · exact cellsWf_eraseCell h
  · rename_i hc; exact cellsWf_insertCell hc h (Nat.zero_le a)

/-- A read after a write: the written colour at the address, the old one everywhere else. -/
theorem Memory.read_write {m : Memory} (h : m.wf = true) (a b : Nat) (c : Colour) :
    (m.write a c).read b = if b = a then c else m.read b := by
  unfold Memory.write
  split
  · rename_i hc
    simp only [Memory.read, lookupCell_eraseCell a b h]
    by_cases hb : b = a <;> simp [hb, hc, Background.read]
  · simp only [Memory.read, lookupCell_insertCell]
    by_cases hb : b = a <;> simp [hb]

theorem Memory.cleared_wf (c : Colour) : (Memory.cleared c).wf = true := rfl

@[simp] theorem Memory.read_cleared (c : Colour) (a : Nat) : (Memory.cleared c).read a = c := rfl

theorem Memory.unspecified_wf (n : Nat) : (Memory.mk (.unspecified n) []).wf = true := rfl

theorem Memory.writeRun_wf {m : Memory} (h : m.wf = true) (a n : Nat) (c : Colour) :
    (m.writeRun a n c).wf = true := by
  induction n with
  | zero => exact h
  | succ n ih => exact Memory.write_wf ih _ _

/-- A run of writes: the written colour on the run, the old one everywhere else. -/
theorem Memory.read_writeRun {m : Memory} (h : m.wf = true) (a n b : Nat) (c : Colour) :
    (m.writeRun a n c).read b = if a ≤ b ∧ b < a + n then c else m.read b := by
  induction n with
  | zero => simp [Memory.writeRun]
  | succ n ih =>
    simp only [Memory.writeRun, Memory.read_write (Memory.writeRun_wf h a n c), ih]
    by_cases hb : b = a + n
    · have : a ≤ b ∧ b < a + (n + 1) := by omega
      simp [this]
      intro h1; omega
    · have : (a ≤ b ∧ b < a + (n + 1)) ↔ (a ≤ b ∧ b < a + n) := by omega
      simp [hb, this]

theorem Memory.writeRect_wf {m : Memory} (h : m.wf = true) (a stride n rows : Nat) (c : Colour) :
    (m.writeRect a stride n rows c).wf = true := by
  induction rows with
  | zero => exact h
  | succ rows ih => exact Memory.writeRun_wf ih _ _ _

/-- A rectangle of writes by address: the written colour in one of its rows, the old one everywhere else. -/
theorem Memory.read_writeRect {m : Memory} (h : m.wf = true) (a stride n rows b : Nat) (c : Colour) :
    (m.writeRect a stride n rows c).read b =
      if ∃ r, r < rows ∧ a + r * stride ≤ b ∧ b < a + r * stride + n then c else m.read b := by
  induction rows with
  | zero => simp [Memory.writeRect]
  | succ rows ih =>
    simp only [Memory.writeRect, Memory.read_writeRun (Memory.writeRect_wf h a stride n rows c), ih]
    by_cases hr : a + rows * stride ≤ b ∧ b < a + rows * stride + n
    · have : ∃ r, r < rows + 1 ∧ a + r * stride ≤ b ∧ b < a + r * stride + n := ⟨rows, by omega, hr⟩
      rw [if_pos hr, if_pos this]
    · rw [if_neg hr]
      have : (∃ r, r < rows + 1 ∧ a + r * stride ≤ b ∧ b < a + r * stride + n) ↔
          (∃ r, r < rows ∧ a + r * stride ≤ b ∧ b < a + r * stride + n) := by
        constructor
        · rintro ⟨r, h1, h2⟩
          rcases Nat.lt_succ_iff_lt_or_eq.mp h1 with h3 | h3
          · exact ⟨r, h3, h2⟩
          · subst h3; exact absurd h2 hr
        · rintro ⟨r, h1, h2⟩; exact ⟨r, by omega, h2⟩
      simp only [this]

/-- Every draw command keeps the canonical form. -/
theorem drawOn_wf (cfg : Config) (d : DrawCmd) {m : Memory} (h : m.wf = true) : (drawOn cfg d m).wf = true := by
  cases d with
  | clear c => exact Memory.cleared_wf c
  | fill x y side c => exact Memory.writeRect_wf h _ _ _ _ _
  | present => exact h

theorem displayAfter_wf (d : DrawCmd) {m n : Memory} (hm : m.wf = true) (hn : n.wf = true) :
    (displayAfter d m n).wf = true := by
  cases d <;> assumption

end Sys2Proof.Machine
end

