-- ==== Sys2Proof/Laws/Operands.lean ====
section
/-! SUPPORT. Widths, line vectors, the keymap function and rectangle corners: what each computes, said once. -/

namespace Sys2Proof

open Machine

/-! ### Widths -/

theorem le_two_pow_clog2 (n : Nat) : n ≤ 2 ^ clog2 n := by
  unfold clog2
  split
  · simpa using by assumption
  · have := Nat.lt_log2_self (n := n - 1)
    omega

theorem le_two_pow_fieldWidth (n : Nat) : n ≤ 2 ^ fieldWidth n :=
  Nat.le_trans (le_two_pow_clog2 n) (Nat.pow_le_pow_right (by decide) (Nat.le_max_right 1 _))

/-- A column of the surface fits the `x` field (R89). -/
theorem Config.lt_xw {cfg : Config} {x : Nat} (h : x < cfg.surfW) : x < 2 ^ cfg.xw :=
  Nat.lt_of_lt_of_le h (le_two_pow_fieldWidth _)

/-- A row of the surface fits the `y` field (R89). -/
theorem Config.lt_yw {cfg : Config} {y : Nat} (h : y < cfg.surfH) : y < 2 ^ cfg.yw :=
  Nat.lt_of_lt_of_le h (le_two_pow_fieldWidth _)

/-- `SCALE` fits the `side` field (R89). -/
theorem Config.scale_lt_sw (cfg : Config) : cfg.scale < 2 ^ cfg.sw :=
  Nat.lt_of_lt_of_le (Nat.lt_succ_self _) (le_two_pow_fieldWidth (cfg.scale + 1))

/-! ### Line vectors (R80, R120) -/

@[simp] theorem Config.testBit_lines (cfg : Config) (v j : Nat) :
    (cfg.lines v).testBit j = (decide (j < cfg.nhk) && v.testBit j) := by
  simp [Config.lines, Nat.testBit_mod_two_pow]

@[simp] theorem Config.testBit_newlyPressed (cfg : Config) (cur prev : Lines) (j : Nat) :
    (cfg.newlyPressed cur prev).testBit j = (decide (j < cfg.nhk) && cur.testBit j && !prev.testBit j) := by
  simp only [Config.newlyPressed, BitVec.testBit_toNat, BitVec.getLsbD_and, BitVec.getLsbD_not, BitVec.getLsbD_ofNat]
  by_cases h : j < cfg.nhk <;> simp [h]

@[simp] theorem Config.testBit_newlyReleased (cfg : Config) (cur prev : Lines) (j : Nat) :
    (cfg.newlyReleased cur prev).testBit j = (decide (j < cfg.nhk) && !cur.testBit j && prev.testBit j) := by
  simp only [Config.newlyReleased, BitVec.testBit_toNat, BitVec.getLsbD_and, BitVec.getLsbD_not, BitVec.getLsbD_ofNat]
  by_cases h : j < cfg.nhk <;> simp [h]

theorem Config.lines_lt (cfg : Config) (v : Nat) : cfg.lines v < 2 ^ cfg.nhk := Nat.mod_lt _ (Nat.two_pow_pos _)

theorem Config.newlyPressed_lt (cfg : Config) (cur prev : Lines) : cfg.newlyPressed cur prev < 2 ^ cfg.nhk :=
  BitVec.isLt _

theorem Config.newlyReleased_lt (cfg : Config) (cur prev : Lines) : cfg.newlyReleased cur prev < 2 ^ cfg.nhk :=
  BitVec.isLt _

/-! ### The keymap function (R110) -/

@[simp] theorem kmOf_nil (v : Lines) : kmOf [] v = none := rfl

theorem kmOf_cons (e : KeyEntry) (rest : List KeyEntry) (v : Lines) :
    kmOf (e :: rest) v = if v.testBit e.hline then some e.lkey else kmOf rest v := rfl

/-- `KM` is `none` exactly when no entry's line is pressed. -/
theorem kmOf_eq_none (table : List KeyEntry) (v : Lines) :
    kmOf table v = none ↔ ∀ e ∈ table, v.testBit e.hline = false := by
  induction table with
  | nil => simp
  | cons e rest ih => by_cases h : v.testBit e.hline <;> simp [kmOf_cons, h, ih]

/-- `KM` depends on the lines of the table alone. -/
theorem kmOf_congr {table : List KeyEntry} {u v : Lines}
    (h : ∀ e ∈ table, u.testBit e.hline = v.testBit e.hline) : kmOf table u = kmOf table v := by
  induction table with
  | nil => rfl
  | cons e rest ih =>
    simp only [kmOf_cons, h e (by simp)]
    rw [ih fun f hf => h f (by simp [hf])]

/-! ### Rectangle corners (R89, R167) -/

theorem Config.cellX_lt {cfg : Config} (h : 1 ≤ cfg.width) (i : Nat) : cfg.cellX i < cfg.width :=
  Nat.mod_lt _ h

theorem Config.cellY_lt {cfg : Config} {i : Nat} (h : i < cfg.cells) : cfg.cellY i < cfg.height :=
  Nat.div_lt_of_lt_mul h

/-- `i = y*W + x` (R57). -/
theorem Config.cell_eq (cfg : Config) (i : Nat) : i = cfg.cellY i * cfg.width + cfg.cellX i :=
  (Nat.div_add_mod' i cfg.width).symm

theorem Config.cornerX_add_le {cfg : Config} (h : 1 ≤ cfg.width) (i : Nat) :
    cfg.cornerX i + cfg.scale ≤ cfg.surfW := by
  have := Nat.mul_le_mul_right cfg.scale (Config.cellX_lt h i)
  rw [Nat.succ_mul] at this
  exact this

theorem Config.cornerY_add_le {cfg : Config} {i : Nat} (h : i < cfg.cells) :
    cfg.cornerY i + cfg.scale ≤ cfg.surfH := by
  have := Nat.mul_le_mul_right cfg.scale (Config.cellY_lt h)
  rw [Nat.succ_mul] at this
  exact this

end Sys2Proof
end

