-- ==== Sys2Proof/Laws/Ops.lean ====
section
/-! SUPPORT. What each shared operation can do, said once: a command to the core, a load, a keymap report, entering a
terminal phase, fetching, and a step. -/

namespace Sys2Proof.Machine

/-! ### The core behind the port -/

/-- No command changes the number of cells of the core's display (R195, R196). -/
theorem Core.apply_fits (cfg : Config) (c : CoreCmd) {k : Core} (h : k.fits cfg = true) :
    (k.apply cfg c).core.fits cfg = true := by
  cases k with
  | opaqueCore t l => cases c <;> rfl
  | fake f =>
    cases c <;> try exact h
    simp only [Core.apply, Core.fits, FakeCore.next, FakeCore.stepDisplay, Bool.and_eq_true, decide_eq_true_eq] at h ⊢
    cases f.firstStepSets with
    | none => exact h
    | some i => by_cases h0 : f.steps = 0 <;> simp [h0, h.1, h.2]

/-- A core fresh from reset has a display of the same size (R241). -/
theorem Core.fresh_fits {cfg : Config} {k : Core} (h : k.fits cfg = true) : k.fresh.fits cfg = true := by
  cases k with
  | opaqueCore t l => rfl
  | fake f => simp only [Core.fits, Core.fresh, FakeCore.fresh, Bool.and_eq_true, decide_eq_true_eq] at h ⊢; exact ⟨h.2, h.2⟩

/-- A fresh core has been sent no `load` (R241). -/
@[simp] theorem Core.fresh_loaded (k : Core) : k.fresh.loaded = false := by cases k <;> rfl

/-- `read_display()` changes no core state (R195, R196). -/
@[simp] theorem Core.apply_readDisplay (cfg : Config) (k : Core) : (k.apply cfg .readDisplay).core = k := by
  cases k <;> rfl

/-- On every core `load` faults exactly when the image is oversized (R186, R196). -/
@[simp] theorem Core.apply_load_fault (cfg : Config) (k : Core) (bytes : List Byte) :
    (k.apply cfg (.load bytes)).fault = oversized cfg bytes := by cases k <;> rfl

/-- Only `load` changes whether the core has been loaded. -/
theorem Core.apply_loaded {cfg : Config} {c : CoreCmd} (h : c.isLoad = false) (k : Core) :
    (k.apply cfg c).core.loaded = k.loaded := by
  cases k <;> cases c <;> first | rfl | simp [CoreCmd.isLoad] at h

/-- The reference fake core completes every command (R198). -/
theorem Core.apply_fake_completes {cfg : Config} {f : FakeCore} (h : f.hangsOn = none) (c : CoreCmd) :
    (Core.apply cfg c (.fake f)).completes = true := by simp [Core.apply, FakeCore.completes, h]

/-- The reference fake core faults on no command but `step()` and an oversized `load` (R198, R196). -/
theorem Core.apply_fake_fault {cfg : Config} {f : FakeCore} (h : f.faultOn = none) (ha : f.faultAt = none) (c : CoreCmd) :
    (Core.apply cfg c (.fake f)).fault = match c with
      | .load bytes => oversized cfg bytes
      | .step | .tickTimers | .keyEvent _ _ | .readDisplay => false := by
  cases c <;> simp [Core.apply, faultBit, FakeCore.faults, h, ha]

/-! ### A command to the core (R190) -/

theorem issue_done {c : CoreCmd} {k : State → State} {s : State} (hc : (s.reply c).completes = true)
    (hf : (s.reply c).fault = false) : issue c k s = k (s.sent c) := by
  simp [issue, hc, hf]

theorem issue_fault {c : CoreCmd} {k : State → State} {s : State} (hc : (s.reply c).completes = true)
    (hf : (s.reply c).fault = true) : issue c k s = raise c.cause ((s.sent c).log (.fault c.cause)) := by
  simp [issue, hc, hf]

theorem issue_hangs {c : CoreCmd} {k : State → State} {s : State} (hc : (s.reply c).completes = false) :
    issue c k s = (s.sent c).setInFlight (some c) := by
  simp [issue, hc]

/-- Everything a command can do: the rest of the operation runs, or the fault is raised, or the block stays inside it. -/
theorem issue_cases (c : CoreCmd) (k : State → State) (s : State) :
    ((s.reply c).completes = true ∧ (s.reply c).fault = false ∧ issue c k s = k (s.sent c)) ∨
    ((s.reply c).completes = true ∧ (s.reply c).fault = true ∧
      issue c k s = raise c.cause ((s.sent c).log (.fault c.cause))) ∨
    ((s.reply c).completes = false ∧ issue c k s = (s.sent c).setInFlight (some c)) := by
  cases hc : (s.reply c).completes
  · exact .inr (.inr ⟨rfl, issue_hangs hc⟩)
  · cases hf : (s.reply c).fault
    · exact .inl ⟨rfl, rfl, issue_done hc hf⟩
    · exact .inr (.inl ⟨rfl, rfl, issue_fault hc hf⟩)

/-- When a load answers a next state, the image can be expressed and the core was not loaded before. -/
theorem issueLoad_next {bytes : List Byte} {k : State → State} {s t : State} (h : issueLoad bytes k s = .next t) :
    bytes.length < 2 ^ s.cfg.lenw ∧ s.core.loaded = false ∧ t = issue (.load bytes) k s := by
  unfold issueLoad at h
  split at h
  · cases h
  · split at h
    · cases h
    · exact ⟨by omega, by simp_all, by injection h with h; exact h.symm⟩

/-- Everything a keymap report can do (R121, R122). -/
theorem report_cases (r : Option Key) (pressed : Bool) (k : State → State) (s : State) :
    (r = none ∧ report r pressed k s = k s) ∨
    (∃ key, r = some key ∧ report r pressed k s = issue (.keyEvent key pressed) k s) := by
  cases r with
  | none => exact .inl ⟨rfl, rfl⟩
  | some key => exact .inr ⟨key, rfl, rfl⟩

/-! ### Fetching -/

/-- The code in `PHASE` decodes to the operation of that phase (R81). -/
@[simp] theorem decode_phase_code (cfg : Config) (p : Phase) : decode cfg .ph p.code.toNat = .ok p.instr := by
  cases p <;> rfl

theorem fetched_run {d : Except Reject Instr} {s t : State} {i : Instr} (h : fetched d s = .run i t) :
    d = .ok i ∧ t = s := by
  cases d with
  | error e => cases h
  | ok j => simp only [fetched, Fetched.run.injEq] at h; exact ⟨by rw [h.1], h.2.symm⟩

/-- Nothing is taken from the inlet in a terminal phase (R226). -/
theorem State.inlet_terminal {s : State} (h : s.phase.isTerminal = true) : s.inlet = none := by
  simp [State.inlet, h]

/-- In every other phase the inlet is read. -/
theorem State.inlet_live {s : State} (h : s.phase.isTerminal = false) : s.inlet = s.cmdIn := by
  simp [State.inlet, h]

/-- Nothing is taken from an empty inlet. -/
theorem State.inlet_of_cmdIn {s : State} (h : s.cmdIn = none) : s.inlet = none := by
  simp [State.inlet, h]

/-- What the inlet reads is what its format's decoder reads, and never a `PHASE` code. -/
theorem decodeInlet_ok {cfg : Config} {f : Format} {w : Nat} {i : Instr} (h : decodeInlet cfg f w = .ok i) :
    f ≠ .ph ∧ decode cfg f w = .ok i := by
  unfold decodeInlet at h
  split at h
  · cases h
  · rename_i hne; exact ⟨fun hf => hne i hf (by rw [hf] at h ⊢; exact h), h⟩

/-- Outside format PH the inlet's decoder is the format's. -/
theorem decodeInlet_of_ne {cfg : Config} {f : Format} {w : Nat} (h : f ≠ .ph) :
    decodeInlet cfg f w = decode cfg f w := by
  cases f <;> first | rfl | exact absurd rfl h

/-- A word its format's decoder rejects is rejected at the inlet for the same reason. -/
theorem decodeInlet_error {cfg : Config} {f : Format} {w : Nat} {why : Reject} (h : decode cfg f w = .error why) :
    decodeInlet cfg f w = .error why := by
  simp [decodeInlet, h]

/-- Everything a fetch can select. -/
theorem fetch_cases (s : State) :
    (∃ r, fetch s = .reject r) ∨
    (s.cfg.wf = true ∧ s.core.fits s.cfg = true ∧
      ((s.host.now.rst = true ∧ fetch s = .reset) ∨
       (s.host.now.rst = false ∧ s.inFlight ≠ none ∧ fetch s = .wait) ∨
       (s.host.now.rst = false ∧ s.inFlight = none ∧
         ((s.inlet = none ∧ fetch s = .run s.phase.instr s) ∨
          ∃ f w i, s.inlet = some (f, w) ∧ decodeInlet s.cfg f w = .ok i ∧ fetch s = .run i (s.setCmdIn none))))) := by
  cases hw : s.cfg.wf
  · exact .inl ⟨.illFormedConfig, by simp [fetch, hw]⟩
  cases hp : s.core.fits s.cfg
  · exact .inl ⟨.displayMismatch, by simp [fetch, hw, hp]⟩
  cases hr : s.host.now.rst
  · cases hi : s.inFlight with
    | some c => exact .inr ⟨rfl, rfl, .inr (.inl ⟨rfl, by simp, by simp [fetch, hw, hp, hr, hi]⟩)⟩
    | none =>
      cases hm : s.inlet with
      | none =>
        exact .inr ⟨rfl, rfl, .inr (.inr ⟨rfl, rfl, .inl ⟨rfl, by simp [fetch, hw, hp, hr, hi, hm, fetched]⟩⟩)⟩
      | some fw =>
        obtain ⟨f, w⟩ := fw
        cases hd : decodeInlet s.cfg f w with
        | error e => exact .inl ⟨.reservedEncoding e, by simp [fetch, hw, hp, hr, hi, hm, hd, fetched]⟩
        | ok i =>
          exact .inr ⟨rfl, rfl, .inr (.inr ⟨rfl, rfl, .inr ⟨f, w, i, rfl, hd,
            by simp [fetch, hw, hp, hr, hi, hm, hd, fetched]⟩⟩)⟩
  · exact .inr ⟨rfl, rfl, .inl ⟨rfl, by simp [fetch, hw, hp, hr]⟩⟩

/-! ### A step -/

/-- An operation's next state becomes the step's with the host's signals moved on. -/
theorem afterExec_next {o : Host.Outcome State Fault Refusal} {t : State} (h : afterExec o = .next t) :
    ∃ u, o = .next u ∧ t = u.advance := by
  cases o with
  | next u => exact ⟨u, rfl, by injection h with h; exact h.symm⟩
  | fault f => cases h
  | refused r => cases h

/-- Everything a step that answers a next state can have done, in a state with no word at the command inlet. -/
theorem step_ready_cases {s t : State} (hr : s.Ready) (h : step s = .next t) :
    (s.host.now.rst = true ∧ t = (hardReset s).advance) ∨
    (s.host.now.rst = false ∧ s.inFlight ≠ none ∧ t = s.advance) ∨
    (s.host.now.rst = false ∧ s.inFlight = none ∧ ∃ u, exec s.phase.instr s = .next u ∧ t = u.advance) := by
  obtain ⟨r, hf⟩ | ⟨-, -, ⟨h1, hf⟩ | ⟨h1, h2, hf⟩ | ⟨h1, h2, ⟨-, hf⟩ | ⟨f, w, i, h3, -, hf⟩⟩⟩ := fetch_cases s
  · simp [step, hf] at h
  · simp only [step, hf] at h; injection h with h; exact .inl ⟨h1, h.symm⟩
  · simp only [step, hf] at h; injection h with h; exact .inr (.inl ⟨h1, h2, h.symm⟩)
  · simp only [step, hf] at h; exact .inr (.inr ⟨h1, h2, afterExec_next h⟩)
  · rw [State.inlet_of_cmdIn hr.2.2] at h3; cases h3

/-- The phase-selected operation by phase: a lemma over all instructions needs only these twelve. -/
theorem Phase.instr_injective {p q : Phase} (h : p.instr = q.instr) : p = q := by
  cases p <;> cases q <;> first | rfl | cases h

end Sys2Proof.Machine
end

