-- ==== Sys2Proof/Laws/Exec.lean ====
section
/-! SUPPORT. One inversion lemma per operation: everything it can have done when it answers a next state. -/

namespace Sys2Proof.Machine

/-- `t` is an outcome of issuing `c` in `s` and going on with `k`: the rest ran, the fault was raised, or the block is
still inside the command. -/
def Issued (c : CoreCmd) (k : State → State) (s t : State) : Prop :=
  ((s.reply c).completes = true ∧ (s.reply c).fault = false ∧ t = k (s.sent c)) ∨
  ((s.reply c).completes = true ∧ (s.reply c).fault = true ∧ t = raise c.cause ((s.sent c).log (.fault c.cause))) ∨
  ((s.reply c).completes = false ∧ t = (s.sent c).setInFlight (some c))

theorem issued (c : CoreCmd) (k : State → State) (s : State) : Issued c k s (issue c k s) := issue_cases c k s

theorem exec_boot_next {s t : State} (h : exec .boot s = .next t) :
    (s.host.now.boot = none ∧ t = s) ∨
    (∃ r, s.host.now.boot = some (.abort r) ∧ t = raise r.cause (s.log (.bootAbort r))) ∨
    ∃ rom, s.host.now.boot = some (.go rom) ∧ rom.length < 2 ^ s.cfg.lenw ∧ s.core.loaded = false ∧
      Issued (.load rom) (fun u => u.goto .sample) (s.log (.bootGo rom)) t := by
  simp only [exec, execBoot] at h
  split at h
  · injection h with h; exact .inl ⟨by assumption, h.symm⟩
  · injection h with h; exact .inr (.inl ⟨_, by assumption, h.symm⟩)
  · obtain ⟨h1, h2, rfl⟩ := issueLoad_next h
    exact .inr (.inr ⟨_, by assumption, h1, h2, issued _ _ _⟩)

theorem exec_press_next {s t : State} (h : exec .press s = .next t) :
    (s.cfg.km s.down = none ∧ t = s.goto .release) ∨
    ∃ k, s.cfg.km s.down = some k ∧ Issued (.keyEvent k true) (fun u => u.goto .release) s t := by
  injection h with h; subst h
  rcases report_cases (s.cfg.km s.down) true (fun u => u.goto .release) s with ⟨h1, e⟩ | ⟨k, h1, e⟩ <;> rw [e]
  · exact .inl ⟨h1, rfl⟩
  · exact .inr ⟨k, h1, issued _ _ _⟩

theorem exec_release_next {s t : State} (h : exec .release s = .next t) :
    (s.cfg.km s.up = none ∧ t = (s.setStepcnt 0).goto .step) ∨
    ∃ k, s.cfg.km s.up = some k ∧ Issued (.keyEvent k false) (fun u => (u.setStepcnt 0).goto .step) s t := by
  injection h with h; subst h
  rcases report_cases (s.cfg.km s.up) false (fun u => (u.setStepcnt 0).goto .step) s with ⟨h1, e⟩ | ⟨k, h1, e⟩ <;> rw [e]
  · exact .inl ⟨h1, rfl⟩
  · exact .inr ⟨k, h1, issued _ _ _⟩

theorem exec_step_next {s t : State} (h : exec .step s = .next t) :
    s.stepcnt < s.cfg.frameBudget ∧ Issued .step
      (fun u => (u.setStepcnt (s.stepcnt + 1)).goto (phaseAfterStep s.cfg (s.stepcnt + 1))) s t := by
  simp only [exec, execStep] at h
  split at h
  · rename_i hd
    injection h with h; subst h
    exact ⟨by simpa [State.stepDue] using hd, issued _ _ _⟩
  · cases h

theorem exec_tick_next {s t : State} (h : exec .tick s = .next t) :
    Issued .tickTimers (fun u => u.goto .rclear) s t := by
  injection h with h; subst h; exact issued _ _ _

theorem exec_rclear_next {s t : State} (h : exec .rclear s = .next t) :
    Issued .readDisplay (fun u => ((emit (.clear .bg) u).setIdx 0).goto .rscan) s t := by
  injection h with h; subst h; exact issued _ _ _

theorem exec_rscan_next {s t : State} (h : exec .rscan s = .next t) :
    s.idx < s.cfg.cells ∧ ∃ b, s.core.pixel s.idx = some b ∧
      t = ((paintCell s.idx b s).setIdx (s.idx + 1)).goto (phaseAfterScan s.cfg (s.idx + 1)) := by
  simp only [exec, execRscan] at h
  split at h
  · rename_i hd
    split at h
    · cases h
    · injection h with h
      exact ⟨by simpa [State.cellDue] using hd, _, by assumption, h.symm⟩
  · cases h

theorem exec_sync_next {s t : State} (h : exec .sync s = .next t) :
    (s.host.now.vsync = true ∧ t = (s.log .vsync).goto .sample) ∨ (s.host.now.vsync = false ∧ t = s) := by
  simp only [exec, execSync] at h
  split at h <;> injection h with h
  · exact .inl ⟨by assumption, h.symm⟩
  · exact .inr ⟨by simp_all, h.symm⟩

theorem exec_drawFill_next {x y side : Nat} {c : Colour} {s t : State} (h : exec (.drawFill x y side c) s = .next t) :
    drawFits s.cfg (.fill x y side c) = true ∧ t = emit (.fill x y side c) s := by
  simp only [exec, execDrawFill] at h
  split at h
  · injection h with h; exact ⟨by assumption, h.symm⟩
  · cases h

/-- What painting one cell leaves of every field but the surface and the trace. -/
theorem paintCell_frame (i : Nat) (b : Bool) (s : State) :
    (paintCell i b s).cfg = s.cfg ∧ (paintCell i b s).phase = s.phase ∧ (paintCell i b s).prev = s.prev ∧
    (paintCell i b s).down = s.down ∧ (paintCell i b s).up = s.up ∧ (paintCell i b s).stepcnt = s.stepcnt ∧
    (paintCell i b s).idx = s.idx ∧ (paintCell i b s).cause = s.cause ∧ (paintCell i b s).core = s.core ∧
    (paintCell i b s).host = s.host ∧ (paintCell i b s).shown = s.shown ∧ (paintCell i b s).inFlight = s.inFlight ∧
    (paintCell i b s).cmdIn = s.cmdIn ∧ (paintCell i b s).kmOut = s.kmOut := by
  cases b <;> exact ⟨rfl, rfl, rfl, rfl, rfl, rfl, rfl, rfl, rfl, rfl, rfl, rfl, rfl, rfl⟩

/-- The surface and the trace after painting one cell. -/
theorem paintCell_effect (i : Nat) (b : Bool) (s : State) :
    (paintCell i b s).surf = (if b then drawOn s.cfg (cellFill s.cfg i) s.surf else s.surf) ∧
    (paintCell i b s).trace = (if b then s.trace ++ [.draw (cellFill s.cfg i)] else s.trace) := by
  cases b <;> exact ⟨rfl, rfl⟩

end Sys2Proof.Machine
end

