-- ==== Sys2Proof/Laws/PerInstr.lean ====
section
/-! SUPPORT. Statements about every instruction, one lemma per constructor. -/

namespace Sys2Proof.Laws.EncodeFits

open Sys2Proof.Machine

/-- The code of an instruction whose operands fit has no bit above the width the spec gives it (R81, R85, R86, R87). -/
def Statement (i : Instr) : Prop :=
  ∀ (cfg : Config) (f : Format) (w : Nat), i.wf cfg = true → encode cfg i = some (f, w) → w < 2 ^ codeWidth cfg i

/-- The bits of `n` data bytes fit `8 * n` bits. -/
theorem packBytes_lt (bytes : List Byte) : packBytes bytes < 2 ^ (8 * bytes.length) := by
  induction bytes with
  | nil => simp [packBytes]
  | cons b rest ih =>
    have hb : b.toNat < 256 := b.isLt
    have : 2 ^ (8 * (rest.length + 1)) = 256 * 2 ^ (8 * rest.length) := by
      rw [Nat.mul_add, Nat.pow_add, Nat.mul_comm]
    simp only [packBytes, List.length_cons, this]
    omega

/-- A low part below `m` and a high part below `n` make a number below `m * n`. -/
theorem low_high_lt {a b m n : Nat} (ha : a < m) (hb : b < n) : a + m * b < m * n := by
  have := Nat.mul_le_mul_left m (Nat.succ_le_of_lt hb)
  rw [Nat.mul_succ] at this
  omega

/-- A DC word whose fields fit has `3 + XW + YW + SW` bits. -/
theorem drawWord_lt {cfg : Config} {op colour x y side : Nat} (ho : op < 4) (hc : colour < 2) (hx : x < 2 ^ cfg.xw)
    (hy : y < 2 ^ cfg.yw) (hs : side < 2 ^ cfg.sw) : drawWord cfg op colour x y side < 2 ^ cfg.dcWidth := by
  have e : 2 ^ cfg.dcWidth = 2 ^ cfg.sw * (2 ^ cfg.yw * (2 ^ cfg.xw * (2 * 4))) := by
    simp only [Config.dcWidth, Nat.pow_add]; ring
  rw [e]
  exact low_high_lt hs (low_high_lt hy (low_high_lt hx (low_high_lt hc ho)))

theorem Colour.code_lt (c : Colour) : c.code < 2 := by cases c <;> decide

/-- An operation selected by `PHASE`: its code is four bits. -/
theorem of_phase {i : Instr} (p : Phase) (he : ∀ cfg, encode cfg i = some (.ph, p.code.toNat))
    (hw : ∀ cfg, codeWidth cfg i = 4) : Statement i := by
  rintro cfg f w - h
  rw [he] at h; injection h with h; injection h with _ h
  rw [hw, ← h]; exact p.code.isLt

/-- A core command without payload words: its code is eight bits. -/
theorem of_command {i : Instr} (c : CoreCmd) (he : ∀ cfg, encode cfg i = some (.cc, c.word.toNat))
    (hw : ∀ cfg, codeWidth cfg i = 8) : Statement i := by
  rintro cfg f w - h
  rw [he] at h; injection h with h; injection h with _ h
  rw [hw, ← h]; exact c.word.isLt

theorem off : Statement .off := of_phase .off (fun _ => rfl) (fun _ => rfl)
theorem boot : Statement .boot := of_phase .boot (fun _ => rfl) (fun _ => rfl)
theorem sample : Statement .sample := of_phase .sample (fun _ => rfl) (fun _ => rfl)
theorem press : Statement .press := of_phase .press (fun _ => rfl) (fun _ => rfl)
theorem release : Statement .release := of_phase .release (fun _ => rfl) (fun _ => rfl)
theorem step : Statement .step := of_phase .step (fun _ => rfl) (fun _ => rfl)
theorem tick : Statement .tick := of_phase .tick (fun _ => rfl) (fun _ => rfl)
theorem rclear : Statement .rclear := of_phase .rclear (fun _ => rfl) (fun _ => rfl)
theorem rscan : Statement .rscan := of_phase .rscan (fun _ => rfl) (fun _ => rfl)
theorem present : Statement .present := of_phase .present (fun _ => rfl) (fun _ => rfl)
theorem sync : Statement .sync := of_phase .sync (fun _ => rfl) (fun _ => rfl)
theorem halt : Statement .halt := of_phase .halt (fun _ => rfl) (fun _ => rfl)

theorem coreLoad (bytes : List Byte) : Statement (.coreLoad bytes) := by
  rintro cfg f w hw h
  injection h with h; injection h with _ h; subst h
  have hl : bytes.length < 2 ^ cfg.lenw := by simpa [Instr.wf] using hw
  have e : 2 ^ codeWidth cfg (.coreLoad bytes) = 256 * (2 ^ cfg.lenw * 2 ^ (8 * bytes.length)) := by
    simp only [codeWidth, Nat.pow_add]; ring
  rw [e]
  exact low_high_lt (by decide) (low_high_lt hl (packBytes_lt bytes))

theorem coreStep : Statement .coreStep := of_command .step (fun _ => rfl) (fun _ => rfl)
theorem coreTickTimers : Statement .coreTickTimers := of_command .tickTimers (fun _ => rfl) (fun _ => rfl)
theorem coreKeyEvent (pressed : Bool) (key : Key) : Statement (.coreKeyEvent pressed key) :=
  of_command (.keyEvent key pressed) (fun _ => rfl) (fun _ => rfl)
theorem coreReadDisplay : Statement .coreReadDisplay := of_command .readDisplay (fun _ => rfl) (fun _ => rfl)

theorem drawClear (c : Colour) : Statement (.drawClear c) := by
  rintro cfg f w - h; injection h with h; injection h with _ h; subst h
  exact drawWord_lt (by decide) (Colour.code_lt c) (Nat.two_pow_pos _) (Nat.two_pow_pos _) (Nat.two_pow_pos _)
theorem drawFill (x y side : Nat) (c : Colour) : Statement (.drawFill x y side c) := by
  rintro cfg f w hw h; injection h with h; injection h with _ h; subst h
  simp only [Instr.wf, Bool.and_eq_true, decide_eq_true_eq] at hw
  exact drawWord_lt (by decide) (Colour.code_lt c) hw.1.1 hw.1.2 hw.2
theorem drawPresent : Statement .drawPresent := by
  rintro cfg f w - h; injection h with h; injection h with _ h; subst h
  exact drawWord_lt (by decide) (by decide) (Nat.two_pow_pos _) (Nat.two_pow_pos _) (Nat.two_pow_pos _)

theorem kmap (v : Lines) : Statement (.kmap v) := by rintro cfg f w - h; cases h

end Sys2Proof.Laws.EncodeFits
end

