-- ==== Sys2Proof/Laws/Safety.lean ====
section
/-! SUPPORT. The terms of the claims over traces, schedules and command lists: what each is of a trace with an event added,
of a list with a command added, of two runs in a row. -/

namespace Sys2Proof.Machine

@[simp] theorem coreCmds_append (a b : List Event) : coreCmds (a ++ b) = coreCmds a ++ coreCmds b :=
  List.filterMap_append

@[simp] theorem drawCmds_append (a b : List Event) : drawCmds (a ++ b) = drawCmds a ++ drawCmds b :=
  List.filterMap_append

@[simp] theorem drawCmds_draw (d : DrawCmd) : drawCmds [.draw d] = [d] := rfl

@[simp] theorem framesIn_append (a b : List Event) : framesIn (a ++ b) = framesIn a + framesIn b := List.count_append

@[simp] theorem stepsIn_append (a b : List Event) : stepsIn (a ++ b) = stepsIn a + stepsIn b := List.count_append

@[simp] theorem ticksIn_append (a b : List Event) : ticksIn (a ++ b) = ticksIn a + ticksIn b := List.count_append

/-- A `clear` empties the draws since the last one. -/
@[simp] theorem sinceClear_clear (ds : List DrawCmd) (c : Colour) : sinceClear (ds ++ [.clear c]) = [] := by
  simp [sinceClear]

@[simp] theorem sinceClear_fill (ds : List DrawCmd) (x y side : Nat) (c : Colour) :
    sinceClear (ds ++ [.fill x y side c]) = sinceClear ds ++ [.fill x y side c] := by
  simp [sinceClear]

@[simp] theorem sinceClear_present (ds : List DrawCmd) : sinceClear (ds ++ [.present]) = sinceClear ds ++ [.present] := by
  simp [sinceClear]

@[simp] theorem fillsBelow_zero (cfg : Config) (k : Core) : fillsBelow cfg k 0 = [] := rfl

/-- One more cell: its fill is added when it is set. -/
theorem fillsBelow_succ {cfg : Config} {k : Core} {n : Nat} {b : Bool} (h : k.pixel n = some b) :
    fillsBelow cfg k (n + 1) = fillsBelow cfg k n ++ if b then [cellFill cfg n] else [] := by
  unfold fillsBelow
  rw [List.range_succ, List.filter_append, List.map_append]
  cases b <;> simp [h, cellFill, Config.cornerX, Config.cornerY, Config.cellX, Config.cellY]

/-- The commands of two lists in turn leave the core where the second leaves the first's. -/
theorem Core.after_append (cfg : Config) (a b : List CoreCmd) (k : Core) :
    k.after cfg (a ++ b) = (k.after cfg a).after cfg b := by
  induction a generalizing k with
  | nil => rfl
  | cons c rest ih => exact ih _

/-- What accepting a command and the rest says. -/
theorem Core.accepts_cons {cfg : Config} {c : CoreCmd} {rest : List CoreCmd} {k : Core}
    (h : k.accepts cfg (c :: rest) = true) :
    (k.apply cfg c).completes = true ∧ (k.apply cfg c).fault = false ∧ (k.apply cfg c).core.accepts cfg rest = true := by
  simpa [Core.accepts, and_assoc] using h

/-- The host port after two runs in a row. -/
theorem HostPort.after_add (h : HostPort) (m n : Nat) : h.after (m + n) = (h.after m).after n := by
  induction m generalizing h with
  | zero => simp [HostPort.after]
  | succ m ih => rw [Nat.succ_add]; exact ih _

end Sys2Proof.Machine
end

