-- ==== Sys2Proof/Certificates/Slice0/Obligations.lean ====
section
/-! DEFINITION. The statements for the provers. Each docstring names the rule of spec/ it comes from. A next state is
written as the old one with the fields that change, so every equation states the result and the frame at once: whatever
it does not name, the registers, the surface, the core, the display, the trace, is as before. -/

open Sys2Proof Sys2Proof.Machine

/-! ## Formats and codes (spec/30_encoding.md) -/

/-- 30_encoding.md: decoding the code of any instruction whose operands fit gives that instruction back, in every
configuration and with every operand the code can carry. -/
def Obligations.DecodeOfEncodeIsTheInstruction : Prop :=
  ∀ (cfg : Config) (i : Instr) (f : Format) (w : Nat),
    i.wf cfg = true → encode cfg i = some (f, w) → decode cfg f w = .ok i

/-- 30_encoding.md: the other direction. What decodes is exactly what the encoder writes, so no two words of a format
mean one instruction, and no decoded operand is too large for its field. For DC words this rests on the model's reading
that a word with a non-zero field its op has no use for is refused (DEDUCED, log entry 13), and for `load` on the model's
numbering of its transaction as one word (DESIGN CHOICE, log entry 6). -/
def Obligations.EncodeOfDecodeIsTheWord : Prop :=
  ∀ (cfg : Config) (f : Format) (w : Nat) (i : Instr),
    decode cfg f w = .ok i → encode cfg i = some (f, w) ∧ i.wf cfg = true

/-- 30_encoding.md and 95_test_vectors.md: words written out from the spec's formats are read as the spec reads them. That
a load's CC word, its length and its bytes are numbered as one word, the CC word lowest, is the model's choice (log
entry 6). -/
def Obligations.WrittenWordsDecodeRight : Prop :=
  decode Config.default .ph 0b0101 = .ok .step ∧
  decode Config.default .cc 0b10010100 = .ok (.coreKeyEvent true 0x4) ∧
  decode Config.default .cc 0x00120002_20 = .ok (.coreLoad [0x12, 0x00]) ∧
  decode Config.default .dc 0x1AD00AA = .ok (.drawFill 360 10 10 .fg) ∧
  decode Config.default .dc 0x2000000 = .ok .drawPresent ∧
  decode Config.default .ph 0xB = .error .reservedPhase ∧
  decode Config.default .cc 0xC0 = .error .reservedCoreOp ∧
  decode Config.default .cc 0x41 = .error .nonzeroPayload ∧
  decode Config.default .dc 0x3000000 = .error .reservedDrawOp

/-- R81: the twelve codes of `PHASE`, each the opcode of its operation. -/
def Obligations.PhaseCodesAreTheTable : Prop :=
  ([Phase.off, .boot, .sample, .press, .release, .step, .tick, .rclear, .rscan, .present, .sync, .halt].map
      fun p => (p.code.toNat, p.instr)) =
    [(0x0, .off), (0x1, .boot), (0x2, .sample), (0x3, .press), (0x4, .release), (0x5, .step), (0x6, .tick),
     (0x7, .rclear), (0x8, .rscan), (0x9, .present), (0xA, .sync), (0xF, .halt)] ∧
  (∀ (cfg : Config) (p : Phase), decode cfg .ph p.code.toNat = .ok p.instr) ∧
  ∀ (cfg : Config) (w : Nat), 0xB ≤ w → w ≤ 0xE → decode cfg .ph w = .error .reservedPhase

/-- R82: a KeyEvent is `{pressed, key[3:0]}` and all 32 values are legal. -/
def Obligations.KeyEventFormat : Prop :=
  (∀ (p : Bool) (k : Key), (encodeKE p k).getLsbD 4 = p ∧ ∀ j, j < 4 → (encodeKE p k).getLsbD j = k.getLsbD j) ∧
  ∀ w : BitVec 5, ∃ (p : Bool) (k : Key), encodeKE p k = w

/-- R83: a `KEYMAP` entry is `{hline, lkey[3:0]}` in `HLW + 4` bits; the default table's sixteen bytes. -/
def Obligations.KeymapEntryFormat : Prop :=
  (∀ (cfg : Config) (e : KeyEntry), e.hline < cfg.nhk →
    encodeKT e < 2 ^ (cfg.hlw + 4) ∧ decodeKT cfg (encodeKT e) = e ∧
    encodeKT e / 16 = e.hline ∧ encodeKT e % 16 = e.lkey.toNat) ∧
  (∀ cfg : Config, cfg.hlw = max 1 (clog2 cfg.nhk)) ∧ Config.default.hlw = 4 ∧
  Config.default.keymap.map encodeKT =
    [0x01, 0x12, 0x23, 0x3C, 0x44, 0x55, 0x66, 0x7D, 0x87, 0x98, 0xA9, 0xBE, 0xCA, 0xD0, 0xEB, 0xFF]

/-- R84: `none` is 0x00, `some(k)` is 0x10 to 0x1F, so the real key 0x0 is not `none`. -/
def Obligations.KeymapResultFormat : Prop :=
  encodeKO none = 0x00 ∧
  (∀ k : Key, (encodeKO (some k)).toNat = 0x10 + k.toNat ∧ (encodeKO (some k)).getLsbD 4 = true) ∧
  (encodeKO none).getLsbD 4 = false ∧
  (∀ r : Option Key, decodeKO (encodeKO r) = some r) ∧
  encodeKO (some 0x0) ≠ encodeKO none

/-- 30_encoding.md section 1: the words of the core commands, the words of the load transaction, and every field of the
words of `clear` in both colours, of `fill` and of `present()`. -/
def Obligations.CommandWordsHaveTheirFields : Prop :=
  (∀ cfg, CoreCmd.step.words = [0x40] ∧ CoreCmd.tickTimers.words = [0x60] ∧ CoreCmd.readDisplay.words = [0xA0] ∧
    (CoreCmd.step.bits cfg = 0x40 ∧ CoreCmd.tickTimers.bits cfg = 0x60 ∧ CoreCmd.readDisplay.bits cfg = 0xA0)) ∧
  (∀ (k : Key) (p : Bool), (CoreCmd.keyEvent k p).words = [0x80 + 0x10 * p.toNat + k.toNat]) ∧
  (∀ bytes, (CoreCmd.load bytes).words = 0x20 :: bytes.length :: bytes.map BitVec.toNat) ∧
  (∀ (cfg : Config) (x y side : Nat) (c : Colour), x < 2 ^ cfg.xw → y < 2 ^ cfg.yw → side < 2 ^ cfg.sw →
    (DrawCmd.fill x y side c).word cfg % 2 ^ cfg.sw = side ∧
    (DrawCmd.fill x y side c).word cfg / 2 ^ cfg.sw % 2 ^ cfg.yw = y ∧
    (DrawCmd.fill x y side c).word cfg / 2 ^ (cfg.sw + cfg.yw) % 2 ^ cfg.xw = x ∧
    (DrawCmd.fill x y side c).word cfg / 2 ^ (cfg.sw + cfg.yw + cfg.xw) = 2 * 0b01 + c.code) ∧
  (∀ (cfg : Config) (c : Colour),
    (DrawCmd.clear c).word cfg % 2 ^ cfg.sw = 0 ∧
    (DrawCmd.clear c).word cfg / 2 ^ cfg.sw % 2 ^ cfg.yw = 0 ∧
    (DrawCmd.clear c).word cfg / 2 ^ (cfg.sw + cfg.yw) % 2 ^ cfg.xw = 0 ∧
    (DrawCmd.clear c).word cfg / 2 ^ (cfg.sw + cfg.yw + cfg.xw) = 2 * 0b00 + c.code) ∧
  ∀ cfg : Config,
    DrawCmd.present.word cfg % 2 ^ cfg.sw = 0 ∧
    DrawCmd.present.word cfg / 2 ^ cfg.sw % 2 ^ cfg.yw = 0 ∧
    DrawCmd.present.word cfg / 2 ^ (cfg.sw + cfg.yw) % 2 ^ cfg.xw = 0 ∧
    DrawCmd.present.word cfg / 2 ^ (cfg.sw + cfg.yw + cfg.xw) = 2 * 0b10 + 0

/-- R93: a configuration record is well formed iff every constraint of R5 holds, and an ill-formed one is refused. -/
def Obligations.IllFormedConfigurationIsRefused : Prop :=
  (∀ cfg : Config, cfg.wf = true ↔
    1 ≤ cfg.width ∧ 1 ≤ cfg.height ∧ 1 ≤ cfg.scale ∧ 1 ≤ cfg.frameBudget ∧ 16 ≤ cfg.nhk ∧ cfg.keymap.length = 16 ∧
    (∀ e ∈ cfg.keymap, e.hline < cfg.nhk ∧ e.lkey.toNat ≤ 0xF) ∧
    (cfg.keymap.map KeyEntry.hline).Pairwise (· ≠ ·) ∧ 1 ≤ cfg.lenw) ∧
  ∀ s : State, s.cfg.wf = false → step s = .refused .illFormedConfig

/-- U5 and U7 (93_implementation_defined.md), 30_encoding.md section 4, 45_core_boundary.md: a word that is no instruction,
standing at the command inlet, and a core whose display has not `W*H` cells, are refused by name. The command inlet is the
model's own (log entry 7); that a DC word with a non-zero field its op has no use for is one of these words, and that the
words of a load transaction are numbered as one, are the model's readings (log entries 13 and 6). -/
def Obligations.ReservedWordsAndMismatchedCoresAreRefused : Prop :=
  (∀ (s : State) (f : Format) (w : Nat) (why : Reject), s.cfg.wf = true → s.core.fits s.cfg = true →
    s.host.now.rst = false → s.inFlight = none → s.phase ≠ .off → s.phase ≠ .halt → s.cmdIn = some (f, w) →
    decode s.cfg f w = .error why → step s = .refused (.reservedEncoding why)) ∧
  ∀ s : State, s.cfg.wf = true → s.core.fits s.cfg = false → step s = .refused .displayMismatch

/-! ## The keymap (spec/40_keymap.md) -/

/-- R111: the entry earliest in the table whose line is pressed wins, whatever its line number and its key; none pressed
gives `none`. -/
def Obligations.KeymapFirstMatchWins : Prop :=
  (∀ (cfg : Config) (v : Lines) (k : Key), cfg.km v = some k ↔
    ∃ (p : Nat) (e : KeyEntry), cfg.keymap[p]? = some e ∧ e.lkey = k ∧ v.testBit e.hline = true ∧
      ∀ (q : Nat) (e' : KeyEntry), q < p → cfg.keymap[q]? = some e' → v.testBit e'.hline = false) ∧
  (∀ (cfg : Config) (v : Lines), cfg.km v = none ↔ ∀ e ∈ cfg.keymap, v.testBit e.hline = false) ∧
  Config.default.km 0x0108 = some 0xC ∧ encodeKO (Config.default.km 0x0108) = 0x1C

/-- R112: lines that are no entry's never influence the result. -/
def Obligations.UnmappedLinesAreIgnored : Prop :=
  (∀ (cfg : Config) (u v : Lines), (∀ j, (∃ e ∈ cfg.keymap, e.hline = j) → u.testBit j = v.testBit j) →
    cfg.km u = cfg.km v) ∧
  ∀ (cfg : Config) (v : Lines), (∀ j, v.testBit j = true → ¬ ∃ e ∈ cfg.keymap, e.hline = j) → cfg.km v = none

/-- R114: exactly one mapped line pressed gives that key, whatever unmapped lines are pressed; the empty set gives
`none`; key 0x0 is a key. -/
def Obligations.SingleMappedKeyIsReported : Prop :=
  (∀ (cfg : Config) (v : Lines) (p : Nat) (e : KeyEntry), cfg.keymap[p]? = some e → v.testBit e.hline = true →
    (∀ (q : Nat) (e' : KeyEntry), q ≠ p → cfg.keymap[q]? = some e' → v.testBit e'.hline = false) → cfg.km v = some e.lkey) ∧
  (∀ cfg : Config, cfg.km 0 = none) ∧
  Config.default.km (2 ^ 13) = some 0x0 ∧ encodeKO (Config.default.km (2 ^ 13)) = 0x10 ∧
  encodeKO (Config.default.km 0) = 0x00

/-- 40_keymap.md, Structure: the function is a priority encoder over the gathered request bits followed by a lookup. -/
def Obligations.KeymapIsAPriorityEncoder : Prop :=
  ∀ (cfg : Config) (v : Lines), cfg.km v = kmEncoder cfg v

/-- 40_keymap.md: KMAP always completes, evaluates the function and leaves the block as it was. Where the model keeps the
result (`kmOut`) is its own choice (log entry 8). -/
def Obligations.KmapEvaluatesTheKeymap : Prop :=
  ∀ (v : Lines) (s : State), exec (.kmap v) s = .next { s with kmOut := encodeKO (s.cfg.km v) }

/-! ## The input edge detector (spec/41_input_bridge.md) -/

/-- 41_input_bridge.md, SAMPLE and first frame: one read of `host_keys`, the two transition sets bit by bit, the new
`PREV`. With `PREV` all zeros, its reset value, every line already pressed is newly pressed and none is released. -/
def Obligations.SampleComputesTheTransitions : Prop :=
  ∀ s : State, ∃ down up : Lines,
    exec .sample s = .next { s with down := down, up := up, prev := s.hostKeys, phase := .press,
                                    trace := s.trace ++ [.sample s.hostKeys] } ∧
    (∀ j, down.testBit j = (decide (j < s.cfg.nhk) && s.host.now.keys.testBit j && !s.prev.testBit j) ∧
      up.testBit j = (decide (j < s.cfg.nhk) && !s.host.now.keys.testBit j && s.prev.testBit j) ∧
      s.hostKeys.testBit j = (decide (j < s.cfg.nhk) && s.host.now.keys.testBit j)) ∧
    (s.prev = 0 → down = s.hostKeys ∧ up = 0 ∧ s.cfg.km up = none)

/-- R23: after every SAMPLE no line is in both sets, every newly pressed line is pressed in `PREV` and every newly
released line is not. -/
def Obligations.TransitionSetsAreDisjoint : Prop :=
  ∀ s : State, ∃ t, exec .sample s = .next t ∧
    t.down &&& t.up = 0 ∧ t.down &&& t.prev = t.down ∧ t.up &&& t.prev = 0

/-- 41_input_bridge.md, held keys: a line pressed at two consecutive samples is in neither set; a line first seen released
is in `UP` and a line first seen pressed is in `DOWN`, whatever other lines are held; the spec's worked case of it. -/
def Obligations.HeldLinesGiveNoEvent : Prop :=
  ∀ s : State, ∃ t, exec .sample s = .next t ∧
    (∀ j, s.prev.testBit j = true → s.hostKeys.testBit j = true →
      t.down.testBit j = false ∧ t.up.testBit j = false) ∧
    (∀ j, j < s.cfg.nhk → s.prev.testBit j = true → s.hostKeys.testBit j = false → t.up.testBit j = true) ∧
    (∀ j, s.prev.testBit j = false → s.hostKeys.testBit j = true → t.down.testBit j = true) ∧
    (s.cfg = Config.default → s.prev = 0x0001 → s.hostKeys = 0x0011 →
      t.down = 0x0010 ∧ s.cfg.km t.down = some 0x4)

/-- R121: PRESS sends at most one `key_event(k, true)`, word `0x90 + k`, and goes on to RELEASE; a fault of the core is
cause 6. -/
def Obligations.PressReportsOneNewKey : Prop :=
  (∀ s : State, s.Runs → s.phase = .press → step s = afterExec (exec .press s)) ∧
  (∀ s : State, s.cfg.km s.down = none → exec .press s = .next { s with phase := .release }) ∧
  (∀ (s : State) (k : Key), s.cfg.km s.down = some k → (s.reply (.keyEvent k true)).completes = true →
    ((s.reply (.keyEvent k true)).fault = false →
      exec .press s = .next { s with phase := .release, core := (s.reply (.keyEvent k true)).core,
                                     trace := s.trace ++ [.core (.keyEvent k true)] }) ∧
    ((s.reply (.keyEvent k true)).fault = true →
      exec .press s = .next { s with phase := .halt, cause := .keyEvent, core := (s.reply (.keyEvent k true)).core,
                                     trace := s.trace ++ [.core (.keyEvent k true), .fault .keyEvent] })) ∧
  (∀ k : Key, (CoreCmd.keyEvent k true).word.toNat = 0x90 + k.toNat) ∧ Phase.press.code = 0x3 ∧ Cause.keyEvent.code = 6 ∧
  Config.default.km 0x0010 = some 0x4 ∧ (CoreCmd.keyEvent 0x4 true).word = 0x94

/-- R122: RELEASE sends at most one `key_event(k, false)`, word `0x80 + k`, clears `STEPCNT` and goes on to STEP; a fault
of the core is cause 6. -/
def Obligations.ReleaseReportsOneKeyAndClearsTheCounter : Prop :=
  (∀ s : State, s.Runs → s.phase = .release → step s = afterExec (exec .release s)) ∧
  (∀ s : State, s.cfg.km s.up = none → exec .release s = .next { s with phase := .step, stepcnt := 0 }) ∧
  (∀ (s : State) (k : Key), s.cfg.km s.up = some k → (s.reply (.keyEvent k false)).completes = true →
    ((s.reply (.keyEvent k false)).fault = false →
      exec .release s = .next { s with phase := .step, stepcnt := 0, core := (s.reply (.keyEvent k false)).core,
                                       trace := s.trace ++ [.core (.keyEvent k false)] }) ∧
    ((s.reply (.keyEvent k false)).fault = true →
      exec .release s = .next { s with phase := .halt, cause := .keyEvent, core := (s.reply (.keyEvent k false)).core,
                                       trace := s.trace ++ [.core (.keyEvent k false), .fault .keyEvent] })) ∧
  (∀ k : Key, (CoreCmd.keyEvent k false).word.toNat = 0x80 + k.toNat) ∧ Phase.release.code = 0x4 ∧
  Config.default.km 0x0001 = some 0x1 ∧ (CoreCmd.keyEvent 0x1 false).word = 0x81

/-! ## The frame-budget counter (spec/42_frame_scheduler.md) -/

/-- R138: STEP issues one `step()`, word 0x40, and counts it; the new count decides the phase; on a fault the count stays
and the cause is 4. -/
def Obligations.StepIssuesAndCountsOneCpuStep : Prop :=
  (∀ s : State, s.Runs → s.phase = .step → step s = afterExec (exec .step s)) ∧
  Phase.step.code = 0x5 ∧ CoreCmd.step.word = 0x40 ∧ Cause.step.code = 4 ∧
  ∀ s : State, s.stepcnt < s.cfg.frameBudget → (s.reply .step).completes = true →
    ((s.reply .step).fault = false →
      exec .step s = .next { s with stepcnt := s.stepcnt + 1, core := (s.reply .step).core,
                                    trace := s.trace ++ [.core .step],
                                    phase := if s.stepcnt + 1 = s.cfg.frameBudget then .tick else .step }) ∧
    ((s.reply .step).fault = true →
      exec .step s = .next { s with phase := .halt, cause := .step, core := (s.reply .step).core,
                                    trace := s.trace ++ [.core .step, .fault .step] })

/-- R139: TICK issues one `tick_timers()`, word 0x60, and goes on to RCLEAR; on a fault the cause is 5. -/
def Obligations.TickIssuesOneTimerDecrement : Prop :=
  (∀ s : State, s.Runs → s.phase = .tick → step s = afterExec (exec .tick s)) ∧
  Phase.tick.code = 0x6 ∧ CoreCmd.tickTimers.word = 0x60 ∧ Cause.tickTimers.code = 5 ∧
  ∀ s : State, (s.reply .tickTimers).completes = true →
    ((s.reply .tickTimers).fault = false →
      exec .tick s = .next { s with phase := .rclear, core := (s.reply .tickTimers).core,
                                    trace := s.trace ++ [.core .tickTimers] }) ∧
    ((s.reply .tickTimers).fault = true →
      exec .tick s = .next { s with phase := .halt, cause := .tickTimers, core := (s.reply .tickTimers).core,
                                    trace := s.trace ++ [.core .tickTimers, .fault .tickTimers] })

/-- 42_frame_scheduler.md, SYNC: it holds while `vsync` is not raised, and goes to SAMPLE when it is. -/
def Obligations.SyncWaitsForVsync : Prop :=
  (∀ s : State, s.host.now.vsync = true →
    exec .sync s = .next { s with phase := .sample, trace := s.trace ++ [.vsync] }) ∧
  ∀ s : State, s.host.now.vsync = false → exec .sync s = .next s

/-- 42_frame_scheduler.md section 1 (the successor table): what `PHASE` can be after each operation that has completed. -/
def Obligations.PhaseFollowsTheSuccessorTable : Prop :=
  ∀ s t : State, s.Runs → step s = .next t → t.inFlight = none →
    Successor s.cfg t.stepcnt t.idx s.phase t.phase

/-- 42_frame_scheduler.md section 1, 30_encoding.md section 6: a frame is one pass of the listed operations, `FRAME_BUDGET + W*H + 7` of them; the first frame follows BOOT
with no SYNC before it. -/
def Obligations.FrameIsOnePassOfTheOperations : Prop :=
  (∀ cfg : Config, macroFrame cfg = [.sample, .press, .release] ++ List.replicate cfg.frameBudget .step ++
    [.tick, .rclear] ++ List.replicate (cfg.width * cfg.height) .rscan ++ [.present, .sync]) ∧
  (∀ cfg : Config, (macroFrame cfg).length = cfg.frameBudget + cfg.width * cfg.height + 7) ∧
  ∀ (cfg : Config) (n : Nat), macroRun cfg (n + 1) = .boot :: (macroFrame cfg ++ (macroRun cfg n).tail)

/-- R144: the counting law. The exact counts of `step()` and `tick_timers()` against the completed frames hold after
reset, and every step from a state of the invariant keeps them, in every phase of a block that has not faulted. -/
def Obligations.CountingLawIsKept : Prop :=
  (∀ cfg : Config, (State.resetOf cfg).CountInv) ∧
  ∀ s t : State, s.Inv → s.CountInv → step s = .next t → t.CountInv

/-- 42_frame_scheduler.md sections 1 and 3 (a frame, its trace): over any core that completes the frame's commands without a
fault, from every frame boundary that meets the invariant, if the host asserts no reset during the frame and raises `vsync`
at its last step, the frame completes in exactly `FRAME_BUDGET + W*H + 7` steps, runs exactly the operations of a frame in
their order, and has exactly the trace of R145; the core has had the frame's commands and nothing else. -/
def Obligations.FrameCompletesWithItsTrace : Prop :=
  ∀ s : State, s.Inv → s.phase = .sample → s.inFlight = none →
    s.core.accepts s.cfg (frameCmds s.cfg s.hostKeys s.prev) = true →
    s.host.NoReset (frameLength s.cfg) → (s.host.after (frameLength s.cfg - 1)).now.vsync = true →
    ∃ t, Sys2Proof.core.run (frameLength s.cfg) s = .next t ∧ t.phase = .sample ∧ t.inFlight = none ∧ t.Inv ∧
      t.prev = s.hostKeys ∧ t.core = s.core.after s.cfg (frameCmds s.cfg s.hostKeys s.prev) ∧
      t.trace = s.trace ++ frameTrace s.cfg s.hostKeys s.prev t.core ∧
      ∀ k, k < frameLength s.cfg → ∃ u, Sys2Proof.core.run k s = .next u ∧ (macroFrame s.cfg)[k]? = some u.phase.instr

/-! ## The rasterizer (spec/43_renderer.md) -/

/-- R161: RCLEAR sends `read_display()`, word 0xA0, then `clear(bg)`, every pixel is background, the index is 0; on a
fault the surface is not cleared and the cause is 7. -/
def Obligations.RclearOpensTheViewAndClears : Prop :=
  (∀ s : State, s.Runs → s.phase = .rclear → step s = afterExec (exec .rclear s)) ∧
  Phase.rclear.code = 0x7 ∧ CoreCmd.readDisplay.word = 0xA0 ∧ Cause.readDisplay.code = 7 ∧
  (∀ cfg : Config, (DrawCmd.clear .bg).word cfg = 0) ∧
  ∀ s : State, (s.reply .readDisplay).completes = true →
    ((s.reply .readDisplay).fault = false →
      exec .rclear s = .next { s with phase := .rscan, idx := 0, surf := drawOn s.cfg (.clear .bg) s.surf,
                                      trace := s.trace ++ [.core .readDisplay, .draw (.clear .bg)] } ∧
      ∀ a, (drawOn s.cfg (.clear .bg) s.surf).read a = .bg) ∧
    ((s.reply .readDisplay).fault = true →
      exec .rclear s = .next { s with phase := .halt, cause := .readDisplay,
                                      trace := s.trace ++ [.core .readDisplay, .fault .readDisplay] })

/-- R162: RSCAN at a set cell emits one fill of its square and at an unset cell nothing; the index goes up by one and
decides the phase. -/
def Obligations.RscanPaintsOneCell : Prop :=
  (∀ s : State, s.Runs → s.phase = .rscan → step s = afterExec (exec .rscan s)) ∧ Phase.rscan.code = 0x8 ∧
  (∀ (cfg : Config) (x y side : Nat), (DrawCmd.fill x y side .fg).word cfg = drawWord cfg 0b01 1 x y side) ∧
  ∀ s : State, s.idx < s.cfg.cells →
    (s.core.pixel s.idx = some true →
      exec .rscan s = .next { s with
        idx := s.idx + 1
        phase := if s.idx + 1 = s.cfg.cells then .present else .rscan
        surf := drawOn s.cfg (.fill (s.idx % s.cfg.width * s.cfg.scale) (s.idx / s.cfg.width * s.cfg.scale)
          s.cfg.scale .fg) s.surf
        trace := s.trace ++ [.draw (.fill (s.idx % s.cfg.width * s.cfg.scale)
          (s.idx / s.cfg.width * s.cfg.scale) s.cfg.scale .fg)] }) ∧
    (s.core.pixel s.idx = some false →
      exec .rscan s = .next { s with
        idx := s.idx + 1
        phase := if s.idx + 1 = s.cfg.cells then .present else .rscan })

/-- R163: `fill(X, Y, S, c)` gives exactly the `S*S` pixels of its square the colour `c`; `clear(c)` gives it to every
pixel. -/
def Obligations.FillPaintsExactlyItsSquare : Prop :=
  (∀ (cfg : Config) (m : Memory) (x y side : Nat) (c : Colour), m.wf = true → x + side ≤ cfg.surfW →
    y + side ≤ cfg.surfH → ∀ px py, px < cfg.surfW →
    (drawOn cfg (.fill x y side c) m).read (cfg.pixelAddr px py) =
      if x ≤ px ∧ px ≤ x + side - 1 ∧ y ≤ py ∧ py ≤ y + side - 1 ∧ 0 < side then c
      else m.read (cfg.pixelAddr px py)) ∧
  ∀ (cfg : Config) (m : Memory) (c : Colour) (a : Nat), (drawOn cfg (.clear c) m).read a = c

/-- R164: PRESENT emits `present()`; the display takes the surface as it stands and the surface keeps its contents. No
instruction but PRESENT and `present()` changes what the display has. -/
def Obligations.PresentHandsOverTheSurface : Prop :=
  (∀ s : State, s.Runs → s.phase = .present → step s = afterExec (exec .present s)) ∧ Phase.present.code = 0x9 ∧
  (∀ cfg : Config, DrawCmd.present.word cfg = drawWord cfg 0b10 0 0 0 0) ∧
  (∀ s : State, exec .present s =
    .next { s with phase := .sync, shown := s.surf, trace := s.trace ++ [.draw .present] }) ∧
  ∀ (i : Instr) (s t : State), i ≠ .present → i ≠ .drawPresent → exec i s = .next t → t.shown = s.shown

/-- R57: cell `i` is at column `i mod W`, row `i div W`; the inverse is `y*W + x`; index 0 is top left and `W*H - 1`
bottom right. -/
def Obligations.PixelOrderIsRowMajor : Prop :=
  (∀ (cfg : Config) (i : Nat), 1 ≤ cfg.width → i < cfg.width * cfg.height →
    cfg.cellX i = i % cfg.width ∧ cfg.cellY i = i / cfg.width ∧ cfg.cellX i < cfg.width ∧ cfg.cellY i < cfg.height ∧
    i = cfg.cellY i * cfg.width + cfg.cellX i) ∧
  (∀ (cfg : Config) (x y : Nat), x < cfg.width → cfg.cellX (y * cfg.width + x) = x ∧ cfg.cellY (y * cfg.width + x) = y) ∧
  ∀ cfg : Config, 1 ≤ cfg.width → 1 ≤ cfg.height →
    cfg.cellX 0 = 0 ∧ cfg.cellY 0 = 0 ∧
    cfg.cellX (cfg.width * cfg.height - 1) = cfg.width - 1 ∧ cfg.cellY (cfg.width * cfg.height - 1) = cfg.height - 1

/-- R167: corners are in range and multiples of `SCALE`, a cell's rectangle lies inside the surface, two cells'
rectangles are disjoint, and together they are the whole surface. -/
def Obligations.RectanglesTileTheSurface : Prop :=
  ∀ cfg : Config, cfg.wf = true →
    (∀ i, i < cfg.cells →
      cfg.cellX i ≤ cfg.width - 1 ∧ cfg.cellY i ≤ cfg.height - 1 ∧ i = cfg.cellY i * cfg.width + cfg.cellX i ∧
      cfg.cornerX i ≤ (cfg.width - 1) * cfg.scale ∧ cfg.cornerY i ≤ (cfg.height - 1) * cfg.scale ∧
      cfg.scale ∣ cfg.cornerX i ∧ cfg.scale ∣ cfg.cornerY i ∧ drawFits cfg (cellFill cfg i) = true) ∧
    ∀ x y, x < cfg.surfW → y < cfg.surfH → ∀ i, i < cfg.cells →
      ((cfg.cornerX i ≤ x ∧ x < cfg.cornerX i + cfg.scale ∧ cfg.cornerY i ≤ y ∧ y < cfg.cornerY i + cfg.scale) ↔
        i = cfg.cellOfPixel x y) ∧
      cfg.cellOfPixel x y < cfg.cells

/-- R168: what the display gets. The render invariant holds after reset and every step keeps it: below `IDX` the surface is drawn, above it is
background, and at `present()` the whole picture is the PixelBuffer magnified by `SCALE`. -/
def Obligations.DisplayGetsTheMagnifiedPixelBuffer : Prop :=
  (∀ cfg : Config, (State.resetOf cfg).RenderInv) ∧
  ∀ s t : State, s.Inv → s.RenderInv → step s = .next t → t.RenderInv

/-- 43_renderer.md, scan order and count: every step keeps the draw invariant, which holds after reset: while RSCAN runs the
draw commands since the last `clear` are exactly the fills of the set cells below `IDX`, in ascending order, at PRESENT
those of all cells, at SYNC the same and one `present()`. There are as many fills as set cells, at most `W*H`. -/
def Obligations.DrawsSinceTheClearAreTheSetCells : Prop :=
  (∀ cfg : Config, (State.resetOf cfg).FillInv) ∧
  (∀ s t : State, s.Inv → s.FillInv → step s = .next t → t.FillInv) ∧
  ∀ s : State, s.phase = .present → s.FillInv →
    (sinceClear (drawCmds s.trace)).length = (List.range s.cfg.cells).countP (fun i => s.core.pixel i = some true) ∧
    (sinceClear (drawCmds s.trace)).length ≤ s.cfg.width * s.cfg.height

/-! ## The boot handshake (spec/44_bootstrap.md) -/

/-- 44_bootstrap.md, BOOT: it holds until the host presents its boot input; `boot_abort` ends in OFF with cause 1 or 2 and
no command is issued. -/
def Obligations.BootWaitsAndAborts : Prop :=
  (∀ s : State, s.host.now.boot = none → exec .boot s = .next s) ∧
  (∀ s : State, s.host.now.boot = some (.abort .usage) →
    exec .boot s = .next { s with phase := .off, cause := .usage, trace := s.trace ++ [.bootAbort .usage] }) ∧
  (∀ s : State, s.host.now.boot = some (.abort .romUnreadable) →
    exec .boot s = .next { s with phase := .off, cause := .romUnreadable,
                                  trace := s.trace ++ [.bootAbort .romUnreadable] }) ∧
  Cause.usage.code = 1 ∧ Cause.romUnreadable.code = 2

/-- 44_bootstrap.md, BOOT, empty image, oversized image: on `boot_go` the image is loaded, byte 0 first, and the first
frame follows; an image of at most `ROM_MAX` bytes, the empty one included, never faults; a longer one ends in HALT with
cause 3. -/
def Obligations.BootLoadsTheImage : Prop :=
  ∀ (s : State) (rom : List Byte), s.host.now.boot = some (.go rom) → rom.length < 2 ^ s.cfg.lenw →
    s.core.loaded = false → (s.reply (.load rom)).completes = true →
    (rom.length ≤ s.cfg.romMax →
      exec .boot s = .next { s with phase := .sample, core := (s.reply (.load rom)).core,
                                    trace := s.trace ++ [.bootGo rom, .core (.load rom)] }) ∧
    (s.cfg.romMax < rom.length →
      exec .boot s = .next { s with phase := .halt, cause := .load, core := (s.reply (.load rom)).core,
                                    trace := s.trace ++ [.bootGo rom, .core (.load rom), .fault .load] })

/-- U1 (93_implementation_defined.md), 30_encoding.md section 1: an image the length field cannot express, and a second
`load` on one core lifetime, have no meaning: BOOT with such an image presented, and the command `load` of it in any
state, stop by name. -/
def Obligations.LoadIsRefusedTwiceOrTooLong : Prop :=
  (∀ (s : State) (rom : List Byte), s.host.now.boot = some (.go rom) →
    (2 ^ s.cfg.lenw ≤ rom.length → exec .boot s = .refused .imageTooLong) ∧
    (rom.length < 2 ^ s.cfg.lenw → s.core.loaded = true → exec .boot s = .refused .loadTwice)) ∧
  ∀ (s : State) (bytes : List Byte),
    (2 ^ s.cfg.lenw ≤ bytes.length → exec (.coreLoad bytes) s = .refused .imageTooLong) ∧
    (bytes.length < 2 ^ s.cfg.lenw → s.core.loaded = true → exec (.coreLoad bytes) s = .refused .loadTwice)

/-- R184: a trace holds at most one `load`, and when it holds one it precedes every other core command. -/
def Obligations.LoadComesOnceAndFirst : Prop :=
  (∀ cfg : Config, (State.resetOf cfg).LoadInv) ∧ ∀ s t : State, s.Ready → s.LoadInv → step s = .next t → t.LoadInv

/-! ## The ports (spec/45_core_boundary.md) -/

/-- 45_core_boundary.md section 1: the commands `step()`, `tick_timers()` and `key_event`, as the core command port
performs them; a fault bit ends in HALT with the command's cause. That a command run by itself leaves `PHASE` and the
block's registers as they are is the model's inference (log entry 12). -/
def Obligations.CoreCommandsMoveTheCore : Prop :=
  ∀ (s : State) (i : Instr) (c : CoreCmd),
    ((i = .coreStep ∧ c = .step) ∨ (i = .coreTickTimers ∧ c = .tickTimers) ∨
      ∃ k p, i = .coreKeyEvent p k ∧ c = .keyEvent k p) →
    (s.reply c).completes = true →
    ((s.reply c).fault = false →
      exec i s = .next { s with core := (s.reply c).core, trace := s.trace ++ [.core c] }) ∧
    ((s.reply c).fault = true →
      exec i s = .next { s with core := (s.reply c).core, trace := s.trace ++ [.core c, .fault c.cause],
                                phase := .halt, cause := c.cause })

/-- 45_core_boundary.md section 1: `read_display()` changes no core state; a fault bit ends in HALT with cause 7. That the
command run by itself leaves `PHASE` and the block's registers as they are is the model's inference (log entry 12). -/
def Obligations.ReadDisplayChangesNoCoreState : Prop :=
  ∀ s : State, (s.reply .readDisplay).completes = true →
    ((s.reply .readDisplay).fault = false →
      exec .coreReadDisplay s = .next { s with trace := s.trace ++ [.core .readDisplay] }) ∧
    ((s.reply .readDisplay).fault = true →
      exec .coreReadDisplay s = .next { s with phase := .halt, cause := .readDisplay,
                                               trace := s.trace ++ [.core .readDisplay, .fault .readDisplay] })

/-- 45_core_boundary.md section 1: `load` at the port, of an image that can be expressed, on a core that has had none: one
of at most `ROM_MAX` bytes is taken, byte `i` at `LOAD_OFFSET + i`; a longer one ends in HALT with cause 3. That the command
run by itself leaves `PHASE` and the block's registers as they are is the model's inference (log entry 12). -/
def Obligations.LoadCommandCopiesTheImage : Prop :=
  ∀ (s : State) (bytes : List Byte), bytes.length < 2 ^ s.cfg.lenw → s.core.loaded = false →
    (s.reply (.load bytes)).completes = true →
    (bytes.length ≤ s.cfg.romMax →
      exec (.coreLoad bytes) s =
        .next { s with core := (s.reply (.load bytes)).core, trace := s.trace ++ [.core (.load bytes)] } ∧
      (s.reply (.load bytes)).core.loaded = true ∧
      ∀ f i b, (s.reply (.load bytes)).core = .fake f → bytes[i]? = some b →
        f.memAt s.cfg (s.cfg.loadOffset + i) = some b) ∧
    (s.cfg.romMax < bytes.length →
      exec (.coreLoad bytes) s =
        .next { s with phase := .halt, cause := .load, core := (s.reply (.load bytes)).core,
                       trace := s.trace ++ [.core (.load bytes), .fault .load] })

/-- R198: the transitions of the reference fake core. -/
def Obligations.FakeCoreTransitions : Prop :=
  ∀ (cfg : Config) (f : FakeCore), f.firstStepSets = none → f.faultOn = none → f.hangsOn = none →
    (f.fresh.mem = none ∧ f.fresh.steps = 0 ∧ f.fresh.ticks = 0 ∧ f.fresh.keys = 0 ∧
      f.fresh.display = f.freshDisplay) ∧
    (∀ b, (Core.apply cfg (.load b) (.fake f)).core = .fake { f with mem := some b }) ∧
    Core.apply cfg .step (.fake f) =
      ⟨.fake { f with steps := f.steps + 1 }, decide (f.faultAt = some (f.steps + 1)), true⟩ ∧
    Core.apply cfg .tickTimers (.fake f) = ⟨.fake { f with ticks := f.ticks + 1 }, false, true⟩ ∧
    (∀ k p, ∃ keys, Core.apply cfg (.keyEvent k p) (.fake f) = ⟨.fake { f with keys := keys }, false, true⟩ ∧
      ∀ j, j < 16 → keys.getLsbD j = if j = k.toNat then p else f.keys.getLsbD j) ∧
    Core.apply cfg .readDisplay (.fake f) = ⟨.fake f, false, true⟩

/-- 45_core_boundary.md section 2, 43_renderer.md: the draw commands as the surface performs them. -/
def Obligations.DrawCommandsReachTheSurface : Prop :=
  (∀ (s : State) (c : Colour), exec (.drawClear c) s =
    .next { s with surf := drawOn s.cfg (.clear c) s.surf, trace := s.trace ++ [.draw (.clear c)] }) ∧
  (∀ (s : State) (x y side : Nat) (c : Colour), x + side ≤ s.cfg.surfW → y + side ≤ s.cfg.surfH →
    exec (.drawFill x y side c) s =
      .next { s with surf := drawOn s.cfg (.fill x y side c) s.surf, trace := s.trace ++ [.draw (.fill x y side c)] }) ∧
  ∀ s : State, exec .drawPresent s = .next { s with shown := s.surf, trace := s.trace ++ [.draw .present] }

/-- 20_memory.md, 10_state.md: accesses the spec says are never issued stop by name: a PixelBuffer read at `W*H` or above,
a step count past the budget, a rectangle outside the surface. That they stop as faults is the model's choice (log entry
9). -/
def Obligations.AccessesNeverIssuedStop : Prop :=
  (∀ s : State, s.cfg.cells ≤ s.idx → exec .rscan s = .fault .pixelBufferIndex) ∧
  (∀ s : State, s.cfg.frameBudget ≤ s.stepcnt → exec .step s = .fault .stepCounterRange) ∧
  ∀ (s : State) (x y side : Nat) (c : Colour), s.cfg.surfW < x + side ∨ s.cfg.surfH < y + side →
    exec (.drawFill x y side c) s = .fault .surfaceRange

/-- R11: the block changes the core only by a mutating command, which stands in the trace, and the trace only grows. -/
def Obligations.CoreChangesOnlyByCommands : Prop :=
  ∀ (i : Instr) (s t : State), exec i s = .next t → ∃ evs, t.trace = s.trace ++ evs ∧
    (t.core = s.core ∨ ∃ c, c ≠ CoreCmd.readDisplay ∧ Event.core c ∈ evs ∧ t.core = (s.reply c).core)

/-- 20_memory.md section 7: the PixelBuffer stands still during a render; RCLEAR, RSCAN and PRESENT leave the core as it
is. -/
def Obligations.PixelBufferIsStableDuringARender : Prop :=
  ∀ (i : Instr) (s t : State), i = .rclear ∨ i = .rscan ∨ i = .present → exec i s = .next t →
    t.core = s.core ∧ ∀ j, t.core.pixel j = s.core.pixel j

/-- 45_core_boundary.md section 3 (who reads which host signal): SAMPLE alone reads the key lines, BOOT alone the boot
input, SYNC alone `vsync`; and nothing of a step's signals is remembered for the next. -/
def Obligations.HostSignalsAreReadByOneOperation : Prop :=
  (∀ (i : Instr) (s : State) (v : Lines), i ≠ .sample →
    exec i (s.withKeys v) = mapNext (fun t => t.withKeys v) (exec i s)) ∧
  (∀ (i : Instr) (s : State) (b : Option BootInput), i ≠ .boot →
    exec i (s.withBoot b) = mapNext (fun t => t.withBoot b) (exec i s)) ∧
  (∀ (i : Instr) (s : State) (v : Bool), i ≠ .sync →
    exec i (s.withVsync v) = mapNext (fun t => t.withVsync v) (exec i s)) ∧
  ∀ (s : State) (v : Lines) (b : Option BootInput) (w : Bool),
    (s.withKeys v).advance = s.advance ∧ (s.withBoot b).advance = s.advance ∧ (s.withVsync w).advance = s.advance

/-! ## Stopping and reset (spec/60_exceptions.md, spec/70_reset_and_hazards.md) -/

/-- R217: entering OFF sets `CAUSE` and `PHASE` and nothing else; in OFF no operation is enabled, and no step without `rst`
changes anything but the host's signals. -/
def Obligations.OffIsEnteredAndKept : Prop :=
  (∀ (s : State) (c : Cause), c = .usage ∨ c = .romUnreadable → raise c s = { s with cause := c, phase := .off }) ∧
  (∀ s : State, exec .off s = .next s) ∧
  ∀ s : State, s.cfg.wf = true → s.core.fits s.cfg = true → s.host.now.rst = false → s.phase = .off →
    step s = .next s.advance

/-- R218: entering HALT sets `CAUSE` and `PHASE`; the operation's other register writes are discarded, the faulting
command stays in the trace followed by the fault; in HALT no operation is enabled, and no step without `rst` changes
anything but the host's signals. -/
def Obligations.HaltIsEnteredAndKept : Prop :=
  (∀ (s : State) (c : CoreCmd) (k : State → State), (s.reply c).completes = true → (s.reply c).fault = true →
    issue c k s = { s with cause := c.cause, phase := .halt, core := (s.reply c).core,
                           trace := s.trace ++ [.core c, .fault c.cause] }) ∧
  (∀ c : CoreCmd, 3 ≤ c.cause.code.toNat) ∧
  (∀ s : State, exec .halt s = .next s) ∧
  ∀ s : State, s.cfg.wf = true → s.core.fits s.cfg = true → s.host.now.rst = false → s.phase = .halt →
    step s = .next s.advance

/-- 60_exceptions.md section 1: the codes of the causes, the terminal phase of each, and the status outputs. -/
def Obligations.CauseCodesAndTerminalPhases : Prop :=
  ([Cause.none, .usage, .romUnreadable, .load, .step, .tickTimers, .keyEvent, .readDisplay].map fun c => c.code.toNat) =
    [0, 1, 2, 3, 4, 5, 6, 7] ∧
  ([Cause.usage, .romUnreadable, .load, .step, .tickTimers, .keyEvent, .readDisplay].map Cause.terminal) =
    [.off, .off, .halt, .halt, .halt, .halt, .halt] ∧
  (∀ (b : List Byte) (k : Key) (p : Bool), [CoreCmd.load b, .step, .tickTimers, .keyEvent k p, .readDisplay].map
    CoreCmd.cause = [.load, .step, .tickTimers, .keyEvent, .readDisplay]) ∧
  ∀ s : State, s.phaseO = s.phase.code ∧ s.causeO = s.cause.code

/-- 10_state.md (`CAUSE`): without a reset a cause, once set, stays, and it is set only by entering OFF or HALT. -/
def Obligations.CauseIsWrittenOnce : Prop :=
  ∀ s t : State, s.Inv → s.host.now.rst = false → step s = .next t →
    (s.cause ≠ .none → t.cause = s.cause ∧ t.phase = s.phase) ∧
    (t.cause ≠ s.cause → s.cause = .none ∧ (t.phase = .off ∨ t.phase = .halt))

/-- 93_implementation_defined.md U12: a core command that never completes leaves the block inside its operation, its
registers as they were, and every later step without `rst` leaves it there. That the command is in the trace, that the core
has moved on, and that the model records the command meanwhile are the model's inference (log entry 11). -/
def Obligations.CommandThatNeverCompletesHoldsTheBlock : Prop :=
  (∀ (s : State) (c : CoreCmd) (k : State → State), (s.reply c).completes = false →
    issue c k s = { s with inFlight := some c, core := (s.reply c).core, trace := s.trace ++ [.core c] }) ∧
  ∀ s : State, s.Ready → s.host.now.rst = false → s.inFlight ≠ none → step s = .next s.advance

/-- R240: `rst` overrides whatever is in progress and gives the reset state. -/
def Obligations.ResetOverridesEverything : Prop :=
  ∀ s : State, s.cfg.wf = true → s.core.fits s.cfg = true → s.host.now.rst = true →
    ∃ t, step s = .next t ∧ t.phase = .boot ∧ t.prev = 0 ∧ t.down = 0 ∧ t.up = 0 ∧ t.stepcnt = 0 ∧ t.idx = 0 ∧
      t.cause = .none ∧ (∃ n, t.surf = ⟨.unspecified n, []⟩) ∧ t.trace = [] ∧ t.inFlight = none ∧
      t.core = s.core.fresh ∧ t.core.loaded = false ∧ t.cfg = s.cfg

/-- 10_state.md section 5: the table of reset values. -/
def Obligations.ResetValuesAreTheTable : Prop :=
  State.reset.phase = .boot ∧ State.reset.prev = 0 ∧ State.reset.down = 0 ∧ State.reset.up = 0 ∧
  State.reset.stepcnt = 0 ∧ State.reset.idx = 0 ∧ State.reset.cause = .none ∧
  State.reset.surf = ⟨.unspecified 0, []⟩ ∧ State.reset.core.loaded = false ∧
  State.reset.phaseO = 0x1 ∧ State.reset.causeO = 0

/-! ## The machine as a whole -/

/-- A step runs the decoded instruction. When the configuration is well formed, the core fits it, `rst` is not asserted
and no command is in flight: if `PHASE`'s code decodes to `i`, the step is `exec i` with the host's signals moved on; if a
word of a format other than PH stands at the command inlet (the model's own, log entry 7) outside OFF and HALT and decodes
to `i`, the step takes the word and is `exec i` with the host's signals moved on. -/
def Obligations.StepRunsTheDecodedInstruction : Prop :=
  (∀ (s : State) (i : Instr), s.Runs → decode s.cfg .ph s.phase.code.toNat = .ok i →
    step s = afterExec (exec i s)) ∧
  ∀ (s : State) (f : Format) (w : Nat) (i : Instr), s.cfg.wf = true → s.core.fits s.cfg = true →
    s.host.now.rst = false → s.inFlight = none → s.phase ≠ .off → s.phase ≠ .halt → f ≠ .ph →
    s.cmdIn = some (f, w) → decode s.cfg f w = .ok i →
    step s = afterExec (exec i { s with cmdIn := none })

/-- 10_state.md sections 1 and 3, 20_memory.md: every step keeps the invariant: the configuration stays well formed and
matched to the core, the registers keep their ranges and relations, `CAUSE` matches the phase, the surface keeps its
canonical form. -/
def Obligations.StepKeepsTheRegisterInvariant : Prop :=
  ∀ s t : State, s.Inv → step s = .next t → t.Inv

/-- 10_state.md section 5: the reset state of every well-formed configuration meets every invariant that a statement here
says steps keep: of the registers, the counts, the render, the load and the draws since the last `clear`. -/
def Obligations.ResetMeetsTheInvariants : Prop :=
  State.reset.Inv ∧ State.reset.CountInv ∧ State.reset.RenderInv ∧ State.reset.LoadInv ∧ State.reset.FillInv ∧
  ∀ cfg : Config, cfg.wf = true →
    (State.resetOf cfg).Inv ∧ (State.resetOf cfg).CountInv ∧ (State.resetOf cfg).RenderInv ∧
    (State.resetOf cfg).LoadInv ∧ (State.resetOf cfg).FillInv

/-- 10_state.md section 3: no step changes the configuration record. -/
def Obligations.ConfigurationIsNeverWritten : Prop :=
  ∀ s t : State, step s = .next t → t.cfg = s.cfg

/-- 20_memory.md sections 1 and 4: the surface is written by RCLEAR, RSCAN and the draw commands `clear` and `fill`
alone; every other instruction leaves every pixel as it was. -/
def Obligations.SurfaceIsWrittenByDrawCommandsAlone : Prop :=
  ∀ (i : Instr) (s t : State), i ≠ .rclear → i ≠ .rscan → (∀ c, i ≠ .drawClear c) →
    (∀ x y side c, i ≠ .drawFill x y side c) → exec i s = .next t → ∀ a, t.surf.read a = s.surf.read a
end

