-- ==== Sys2Proof/Tests/Slice0.lean ====
section
/-! SUPPORT. Tests: the well-formedness checks, one written word per constructor, one-step vectors of
spec/95_test_vectors.md, and for every statement that has hypotheses a state and operands that meet them. -/

namespace Sys2Proof.Tests

open Sys2Proof Sys2Proof.Machine

/-! ## Helpers -/

/-- The small geometry of 95_test_vectors.md. -/
def small : Config := { Config.default with width := 4, height := 2, scale := 2, frameBudget := 3 }

/-- Twenty host lines, of which 16 to 19 are unmapped (95_test_vectors.md section 2.1). -/
def twenty : Config := { Config.default with nhk := 20 }

/-- The display of P3 of 95_test_vectors.md: cells 0, 3, 5 and 6 are set. -/
def pattern : List Bool := [true, false, false, true, false, true, true, false]

/-- The reference fake core, fresh, with that display (R198). -/
def fake : FakeCore := ⟨none, 0, 0, 0, pattern, pattern, none, none, none, none⟩

/-- The reset state of the small geometry over that core, in a given phase, with a host input. -/
def inPhase (p : Phase) (i : HostInput) : State :=
  { State.resetOf small with phase := p, core := .fake fake, host := ⟨i, [], 1⟩ }

/-- The same with a quiet host. -/
def quietIn (p : Phase) : State := inPhase p HostInput.quiet

/-- The same over another fake core. -/
def withCore (f : FakeCore) (p : Phase) : State := { quietIn p with core := .fake f }

/-- Line 0 held, line 4 newly pressed, under the default configuration. -/
def held : State := { State.resetOf Config.default with prev := 0x0001, host := ⟨⟨false, 0x0011, none, false⟩, [], 1⟩ }

/-- Line 15, pressed at the last sample, has been let go. -/
def letGo : State := { quietIn .sample with prev := 0x8000 }

/-- PRESS with line 4 newly pressed. -/
def pressing (f : FakeCore) : State := { withCore f .press with down := 0x0010 }

/-- RELEASE with line 4 newly released. -/
def releasing (f : FakeCore) : State := { withCore f .release with up := 0x0010 }

/-- A configuration whose core takes one byte, with a two-bit length field. -/
def tight : Config := { small with lenw := 2, romMax := 1 }

/-- BOOT with an image presented. -/
def booting (cfg : Config) (rom : List Byte) : State :=
  { inPhase .boot ⟨false, 0, some (.go rom), false⟩ with cfg := cfg }

/-- HALT after a faulting `step()`. -/
def halted : State := { quietIn .halt with cause := .step }

/-- BOOT with an abort presented. -/
def aborting : State := inPhase .boot ⟨false, 0, some (.abort .usage), false⟩

/-- The value of a next state's field. -/
def after {α : Type} (o : Host.Outcome State Fault Refusal) (get : State → α) : Option α :=
  match o with
  | .next s => some (get s)
  | .fault _ | .refused _ => none

/-! ## Well-formedness: every check refuses an ill-formed term (R93, R86, R87, R80) -/

theorem test_wf_accepts : Config.default.wf = true ∧ small.wf = true ∧ twenty.wf = true := by decide
theorem test_wf_width : Config.wf { small with width := 0 } = false := by decide
theorem test_wf_height : Config.wf { small with height := 0 } = false := by decide
theorem test_wf_scale : Config.wf { small with scale := 0 } = false := by decide
theorem test_wf_budget : Config.wf { small with frameBudget := 0 } = false := by decide
theorem test_wf_lines : Config.wf { small with nhk := 15, keymap := List.replicate 16 ⟨0, 0⟩ } = false := by decide
theorem test_wf_table_length : Config.wf { small with keymap := Config.defaultKeymap.drop 1 } = false := by decide
theorem test_wf_line_range : Config.wf { small with keymap := ⟨16, 0⟩ :: Config.defaultKeymap.drop 1 } = false := by decide
theorem test_wf_distinct : Config.wf { small with keymap := ⟨1, 0⟩ :: Config.defaultKeymap.drop 1 } = false := by decide
theorem test_wf_lenw : Config.wf { small with lenw := 0 } = false := by decide
theorem test_instr_wf_load : Instr.wf { small with lenw := 1 } (.coreLoad [0x12, 0x00]) = false := by decide
theorem test_instr_wf_fill_x : Instr.wf small (.drawFill 8 0 2 .fg) = false := by decide
theorem test_instr_wf_fill_y : Instr.wf small (.drawFill 0 4 2 .fg) = false := by decide
theorem test_instr_wf_fill_side : Instr.wf small (.drawFill 0 0 4 .fg) = false := by decide
theorem test_instr_wf_kmap : Instr.wf small (.kmap 0x10000) = false := by decide

/-! ## Decoding: words written out from the formats of 30_encoding.md, one per constructor -/

theorem test_decode_off : decode small .ph 0b0000 = .ok .off := by rfl
theorem test_decode_boot : decode small .ph 0b0001 = .ok .boot := by rfl
theorem test_decode_sample : decode small .ph 0b0010 = .ok .sample := by rfl
theorem test_decode_press : decode small .ph 0b0011 = .ok .press := by rfl
theorem test_decode_release : decode small .ph 0b0100 = .ok .release := by rfl
theorem test_decode_step : decode small .ph 0b0101 = .ok .step := by rfl
theorem test_decode_tick : decode small .ph 0b0110 = .ok .tick := by rfl
theorem test_decode_rclear : decode small .ph 0b0111 = .ok .rclear := by rfl
theorem test_decode_rscan : decode small .ph 0b1000 = .ok .rscan := by rfl
theorem test_decode_present : decode small .ph 0b1001 = .ok .present := by rfl
theorem test_decode_sync : decode small .ph 0b1010 = .ok .sync := by rfl
theorem test_decode_halt : decode small .ph 0b1111 = .ok .halt := by rfl

/-- `load(<12 00>)`: CC word 0b001_00000, `len` 0x0002, byte 0 first (R58, R86). -/
theorem test_decode_load : decode small .cc 0x00_12_0002_20 = .ok (.coreLoad [0x12, 0x00]) := by decide
theorem test_decode_core_step : decode small .cc 0b010_00000 = .ok .coreStep := by decide
theorem test_decode_tick_timers : decode small .cc 0b011_00000 = .ok .coreTickTimers := by decide
/-- `key_event(0x4, true)`: op 0b100, `pressed` bit 4, key in bits 3:0 (R82, R85). -/
theorem test_decode_key_event : decode small .cc 0b100_1_0100 = .ok (.coreKeyEvent true 0x4) := by decide
theorem test_decode_read_display : decode small .cc 0b101_00000 = .ok .coreReadDisplay := by decide

/-- `clear(fg)` in the 10-bit word of the small geometry: only the colour bit 7 is set (R87). -/
theorem test_decode_clear : decode small .dc 0b00_1_000_00_00 = .ok (.drawClear .fg) := by decide
/-- `fill(6, 2, 2, fg)`, 0x1EA in 95_test_vectors.md section 2.4. -/
theorem test_decode_fill : decode small .dc 0b01_1_110_10_10 = .ok (.drawFill 6 2 2 .fg) := by decide
theorem test_decode_present_word : decode small .dc 0b10_0_000_00_00 = .ok .drawPresent := by decide
/-- 95_test_vectors.md section 2.4, reference geometry, `IDX` 2047. -/
theorem test_decode_fill_reference : decode Config.default .dc 0x1CED36A = .ok (.drawFill 630 310 10 .fg) := by decide
/-- Format FN has no code (R90): KMAP is encoded by nothing, and no word of FN is an instruction. -/
theorem test_decode_kmap : encode small (.kmap 1) = none ∧ decode small .fn 0 = .error .noCode := by decide

theorem test_reserved_ph : decode small .ph 0b1110 = .error .reservedPhase := by rfl
theorem test_reserved_cc : decode small .cc 0b110_00000 = .error .reservedCoreOp ∧
    decode small .cc 0b000_00000 = .error .reservedCoreOp ∧ decode small .cc 0b111_00000 = .error .reservedCoreOp := by decide
theorem test_payload_cc : decode small .cc 0b101_00001 = .error .nonzeroPayload := by decide
theorem test_reserved_dc : decode small .dc 0b11_0_000_00_00 = .error .reservedDrawOp := by decide
theorem test_table_word : decodeTableWord 8 0x94 = some (.coreKeyEvent true 0x4) ∧ decodeTableWord 4 0xA = some .sync ∧
    decodeTableWord 26 0x2000000 = some .drawPresent := by decide
theorem test_encode_fill : encode small (.drawFill 2 2 2 .fg) = some (.dc, 0x1AA) := by decide
theorem test_words_load : (CoreCmd.load [0x12, 0x00]).words = [0x20, 0x0002, 0x12, 0x00] := by decide
theorem test_keymap_entry : encodeKT ⟨11, 0xE⟩ = 0xBE ∧ decodeKT Config.default 0xBE = ⟨11, 0xE⟩ := by decide

/-! ## The keymap: the corner cases of 95_test_vectors.md section 2.1 -/

theorem test_km_corners : [0x0000, 0x2000, 0x8001, 0x0108, 0xA000, 0xC000, 0xFFFE, 0xFFFF].map
    (fun v => (encodeKO (Config.default.km v)).toNat) = [0x00, 0x10, 0x11, 0x1C, 0x10, 0x1B, 0x12, 0x11] := by decide
theorem test_km_reversed : Config.km { small with keymap := Config.defaultKeymap.reverse } 0x8001 = some 0xF ∧
    Config.km { small with keymap := Config.defaultKeymap.reverse } 0x0108 = some 0x7 := by decide
theorem test_km_unmapped : twenty.km 0xF0000 = none ∧ twenty.km 0x90010 = some 0x4 ∧ twenty.km 0x80000 = none := by decide
theorem test_exec_kmap : after (exec (.kmap 0x8001) (quietIn .sample)) State.kmOut = some 0x11 := by decide

/-! ## One step of each operation: 95_test_vectors.md sections 2.2 to 2.5 -/

/-- Press before release: `PREV` 0x00F0, sample 0x0F00. -/
theorem test_sample : after (exec .sample { inPhase .sample ⟨false, 0x0F00, none, false⟩ with prev := 0x00F0 })
    (fun t => (t.down, t.up, t.prev, t.phase)) = some (0x0F00, 0x00F0, 0x0F00, .press) := by decide
/-- Two presses: line 4's is lost. -/
theorem test_press : after (exec .press { quietIn .press with down := 0x0011 })
    (fun t => (coreWords t.trace, t.phase)) = some ([0x91], .release) := by decide
theorem test_press_nothing : after (exec .press (quietIn .press)) (fun t => (t.trace, t.phase)) = some ([], .release) := by
  decide
/-- Key 0x0 is reported, and the counter is cleared. -/
theorem test_release : after (exec .release { quietIn .release with up := 0x2000, stepcnt := 3 })
    (fun t => (coreWords t.trace, t.phase, t.stepcnt)) = some ([0x80], .step, 0) := by decide
theorem test_step_last : after (exec .step { quietIn .step with stepcnt := 2 })
    (fun t => (coreWords t.trace, t.stepcnt, t.phase)) = some ([0x40], 3, .tick) := by decide
/-- The faulting step is not counted (P4). -/
theorem test_step_fault : after (exec .step { withCore { fake with steps := 4, faultAt := some 5 } .step with stepcnt := 1 })
    (fun t => (t.stepcnt, t.cause, t.phase)) = some (1, .step, .halt) := by decide
theorem test_tick : after (exec .tick (quietIn .tick)) (fun t => (coreWords t.trace, t.phase)) = some ([0x60], .rclear) := by
  decide
theorem test_tick_fault : after (exec .tick (withCore { fake with faultOn := some .tickTimers } .tick))
    (fun t => (t.cause.code, t.phase)) = some (5, .halt) := by decide
theorem test_rclear : after (exec .rclear { quietIn .rclear with idx := 8 })
    (fun t => (coreWords t.trace, drawWords small t.trace, t.idx, t.pixel 7 3)) = some ([0xA0], [0x000], 0, .bg) := by decide
/-- Cell 5 of the small geometry: `fill(2, 2, 2, fg)` writes (2,2) to (3,3) and not (4,3). -/
theorem test_rscan : after (exec .rscan { quietIn .rscan with idx := 5, surf := Memory.cleared .bg })
    (fun t => (drawWords small t.trace, t.idx, t.pixel 3 3, t.pixel 4 3, t.phase)) =
      some ([0x1AA], 6, .fg, .bg, .rscan) := by decide
theorem test_rscan_last : after (exec .rscan { quietIn .rscan with idx := 7, surf := Memory.cleared .bg })
    (fun t => (t.trace, t.idx, t.phase)) = some ([], 8, .present) := by decide
theorem test_present : after (exec .present { quietIn .present with surf := Memory.cleared .fg })
    (fun t => (drawWords small t.trace, t.shownPixel 7 3, t.phase)) = some ([0x200], .fg, .sync) := by decide
theorem test_sync : after (exec .sync (inPhase .sync ⟨false, 0, none, true⟩)) State.phase = some .sample := by decide
theorem test_sync_holds : after (exec .sync (quietIn .sync)) (fun t => (t.phase, t.trace)) = some (.sync, []) := by decide
/-- An empty image loads (S5). -/
theorem test_boot_empty : after (exec .boot (inPhase .boot ⟨false, 0, some (.go []), false⟩))
    (fun t => (coreWords t.trace, t.phase, t.cause)) = some ([0x20, 0], .sample, .none) := by decide
theorem test_boot_abort : after (exec .boot (inPhase .boot ⟨false, 0, some (.abort .usage), false⟩))
    (fun t => (t.trace, t.phase, t.cause.code)) = some ([.bootAbort .usage], .off, 1) := by decide
theorem test_off : after (exec .off (inPhase .off ⟨false, 0xFFFF, none, true⟩)) (fun t => (t.trace, t.phase)) =
    some ([], .off) := by decide
theorem test_halt : after (exec .halt (inPhase .halt ⟨false, 0xFFFF, none, true⟩)) (fun t => (t.trace, t.phase)) =
    some ([], .halt) := by decide
theorem test_core_load : after (exec (.coreLoad [0x00, 0xE0]) (quietIn .boot))
    (fun t => (coreWords t.trace, t.core.loaded)) = some ([0x20, 2, 0x00, 0xE0], true) := by decide
theorem test_core_step : after (exec .coreStep (quietIn .sample)) State.core = some (.fake { fake with steps := 1 }) := by
  decide
theorem test_core_tick : after (exec .coreTickTimers (quietIn .sample)) State.core = some (.fake { fake with ticks := 1 }) := by
  decide
/-- The release of one key leaves the others (P2, frame 3). -/
theorem test_core_key : after (exec (.coreKeyEvent false 0x1) (withCore { fake with keys := 0x0012 } .sample)) State.core =
    some (.fake { fake with keys := 0x0010 }) := by decide
theorem test_core_read : after (exec .coreReadDisplay (quietIn .sample)) State.core = some (.fake fake) := by decide
theorem test_draw_clear : after (exec (.drawClear .fg) (quietIn .sample)) (fun t => t.pixel 0 0) = some .fg := by decide
theorem test_draw_fill : after (exec (.drawFill 6 0 2 .fg) { quietIn .sample with surf := Memory.cleared .bg })
    (fun t => [t.pixel 6 0, t.pixel 7 1, t.pixel 5 0, t.pixel 6 2]) = some [.fg, .fg, .bg, .bg] := by decide
theorem test_draw_present : after (exec .drawPresent { quietIn .sample with surf := Memory.cleared .fg })
    (fun t => (t.shownPixel 0 0, t.phase)) = some (.fg, .sample) := by decide
/-- The trace text of P3's fill (R95). -/
theorem test_text : traceText small [.bootGo [0x12, 0x00], .sample 0x20, .core (.keyEvent 0x5 true), .draw (.fill 0 2 2 .fg)] =
    "boot_go(<12 00>); sample(0x0020); key_event(0x5, true); fill(0, 2, 2, fg)" := by decide
/-- A step runs the operation in `PHASE`; a placed word runs next. -/
theorem test_step_runs : after (step (quietIn .tick)) State.phase = some .rclear := by rfl
theorem test_placed : after (step (State.withFetchWord (quietIn .boot) 8 0x40)) State.core =
    some (.fake { fake with steps := 1 }) := by rfl
/-- Nothing at the inlet moves a block in OFF or HALT (R226), and a placed word still runs from HALT. -/
theorem test_terminal : after (step { quietIn .halt with cmdIn := some (.ph, 2) }) (fun t => (t.phase, t.trace)) = some (.halt, []) ∧
    after (step { withCore { fake with faultOn := some .step } .off with cmdIn := some (.cc, 0x40) })
      (fun t => (t.phase, t.trace)) = some (.off, []) := ⟨rfl, rfl⟩
theorem test_placed_from_halt : after (step (State.withFetchWord (quietIn .halt) 8 0x40)) State.core =
    some (.fake { fake with steps := 1 }) := by rfl
/-- A `PHASE` code at the inlet selects nothing (R21). -/
theorem test_out_of_phase : step { quietIn .boot with cmdIn := some (.ph, 2) } = .refused (.reservedEncoding .outOfPhase) := by
  rfl
/-- `rst` overrides whatever is in progress (R240). -/
theorem test_rst : after (step { inPhase .rscan ⟨true, 0, none, false⟩ with idx := 3, prev := 7 })
    (fun t => (t.phase, t.idx, t.prev)) = some (.boot, 0, 0) := by rfl

/-! ## Witnesses: the hypotheses of every statement that has some are met -/

theorem witness_DecodeOfEncodeIsTheInstruction :
    Instr.wf Config.default (.drawFill 1023 511 15 .bg) = true ∧
    encode Config.default (.drawFill 1023 511 15 .bg) = some (.dc, 0x17FFFFF) ∧
    Instr.wf Config.default (.coreKeyEvent true 0xF) = true ∧
    encode Config.default (.coreKeyEvent true 0xF) = some (.cc, 0x9F) := by decide
theorem witness_EncodeOfDecodeIsTheWord : decode Config.default .cc 0x80 = .ok (.coreKeyEvent false 0x0) := by decide
theorem witness_PhaseCodesAreTheTable : (0xB ≤ 0xB ∧ 0xB ≤ 0xE) ∧ (0xB ≤ 0xE ∧ 0xE ≤ 0xE) := by decide
theorem witness_KeyEventFormat : 0 < 4 ∧ 3 < 4 := by decide
theorem witness_KeymapEntryFormat :
    (⟨15, 0xF⟩ : KeyEntry).hline < Config.default.nhk ∧ (⟨0, 0x1⟩ : KeyEntry).hline < Config.default.nhk := by decide
theorem witness_CommandWordsHaveTheirFields :
    639 < 2 ^ Config.default.xw ∧ 319 < 2 ^ Config.default.yw ∧ 10 < 2 ^ Config.default.sw := by decide
theorem witness_IllFormedConfigurationIsRefused :
    (State.resetOf { small with width := 0 }).cfg.wf = false := by decide
theorem witness_ReservedWordsAndMismatchedCoresAreRefused :
    (State.withFetchWord (quietIn .boot) 8 0xC0).cfg.wf = true ∧
    (State.withFetchWord (quietIn .boot) 8 0xC0).core.fits small = true ∧
    (State.withFetchWord (quietIn .boot) 8 0xC0).host.now.rst = false ∧
    (State.withFetchWord (quietIn .boot) 8 0xC0).inFlight = none ∧
    (State.withFetchWord (quietIn .boot) 8 0xC0).phase ≠ .off ∧ (State.withFetchWord (quietIn .boot) 8 0xC0).phase ≠ .halt ∧
    (State.withFetchWord (quietIn .boot) 8 0xC0).cmdIn = some (.cc, 0xC0) ∧
    decode small .cc 0xC0 = .error .reservedCoreOp ∧
    (withCore { fake with display := [] } .boot).cfg.wf = true ∧
    (withCore { fake with display := [] } .boot).core.fits small = false := by decide

theorem witness_KeymapFirstMatchWins :
    Config.default.km 0x8000 = some 0xF ∧ Config.default.keymap[15]? = some ⟨15, 0xF⟩ ∧
    (∀ q, q < 15 → ∀ e' ∈ Config.default.keymap[q]?, Nat.testBit 0x8000 e'.hline = false) ∧
    Config.default.km 0 = none ∧ (∀ e ∈ Config.default.keymap, Nat.testBit 0 e.hline = false) := by decide
theorem witness_UnmappedLinesAreIgnored :
    (∀ j, (∃ e ∈ twenty.keymap, e.hline = j) → Nat.testBit 0x90010 j = Nat.testBit 0x00010 j) ∧
    (∀ j, Nat.testBit (2 ^ 19) j = true → ¬ ∃ e ∈ twenty.keymap, e.hline = j) := by
  constructor
  · have h : ∀ e ∈ twenty.keymap, Nat.testBit 0x90010 e.hline = Nat.testBit 0x00010 e.hline := by decide
    rintro j ⟨e, he, rfl⟩; exact h e he
  · have h : ∀ e ∈ twenty.keymap, Nat.testBit (2 ^ 19) e.hline = false := by decide
    rintro j hj ⟨e, he, rfl⟩; rw [h e he] at hj; cases hj
theorem witness_SingleMappedKeyIsReported :
    twenty.keymap[13]? = some ⟨13, 0x0⟩ ∧ Nat.testBit 0xF2000 13 = true ∧
    ∀ (q : Nat) (e' : KeyEntry), q ≠ 13 → twenty.keymap[q]? = some e' → Nat.testBit 0xF2000 e'.hline = false := by
  refine ⟨by decide, by decide, fun q e' hq h => ?_⟩
  have key : ∀ q, q < 16 → q ≠ 13 → ∀ e ∈ twenty.keymap[q]?, Nat.testBit 0xF2000 e.hline = false := by decide
  obtain ⟨hlt, -⟩ := List.getElem?_eq_some_iff.mp h
  exact key q hlt hq e' h

theorem witness_SampleComputesTheTransitions : State.reset.prev = 0 := by decide
theorem witness_HeldLinesGiveNoEvent :
    (held.prev.testBit 0 = true ∧ held.hostKeys.testBit 0 = true) ∧
    (held.cfg = Config.default ∧ held.prev = 0x0001 ∧ held.hostKeys = 0x0011) ∧
    (held.prev.testBit 4 = false ∧ held.hostKeys.testBit 4 = true) ∧
    (15 < letGo.cfg.nhk ∧ letGo.prev.testBit 15 = true ∧ letGo.hostKeys.testBit 15 = false) := by decide

theorem runs_quietIn (p : Phase) : (quietIn p).Runs ∧ (quietIn p).phase = p := ⟨⟨⟨rfl, rfl, rfl⟩, rfl, rfl⟩, rfl⟩

/-- The first clause of seven statements, that the operation in `PHASE` is the one a step performs, has its hypotheses met
in each of their phases. -/
theorem witness_enabled : ∀ p ∈ [Phase.press, .release, .step, .tick, .rclear, .rscan, .present],
    (quietIn p).Runs ∧ (quietIn p).phase = p := fun p _ => runs_quietIn p

theorem witness_PressReportsOneNewKey :
    small.km (quietIn .press).down = none ∧
    (small.km (pressing fake).down = some 0x4 ∧ ((pressing fake).reply (.keyEvent 0x4 true)).completes = true ∧
      ((pressing fake).reply (.keyEvent 0x4 true)).fault = false) ∧
    (((pressing { fake with faultOn := some (.keyEvent 0x4 true) }).reply (.keyEvent 0x4 true)).completes = true ∧
      ((pressing { fake with faultOn := some (.keyEvent 0x4 true) }).reply (.keyEvent 0x4 true)).fault = true) := by decide
theorem witness_ReleaseReportsOneKeyAndClearsTheCounter :
    small.km (quietIn .release).up = none ∧
    (small.km (releasing fake).up = some 0x4 ∧ ((releasing fake).reply (.keyEvent 0x4 false)).completes = true ∧
      ((releasing fake).reply (.keyEvent 0x4 false)).fault = false) ∧
    (((releasing { fake with faultOn := some (.keyEvent 0x4 false) }).reply (.keyEvent 0x4 false)).completes = true ∧
      ((releasing { fake with faultOn := some (.keyEvent 0x4 false) }).reply (.keyEvent 0x4 false)).fault = true) := by
  decide

theorem witness_StepIssuesAndCountsOneCpuStep :
    ((quietIn .step).stepcnt < small.frameBudget ∧ 2 < small.frameBudget) ∧
    ((quietIn .step).reply .step).completes = true ∧ ((quietIn .step).reply .step).fault = false ∧
    ((withCore { fake with faultAt := some 1 } .step).reply .step).completes = true ∧
    ((withCore { fake with faultAt := some 1 } .step).reply .step).fault = true := by decide
theorem witness_TickIssuesOneTimerDecrement :
    ((quietIn .tick).reply .tickTimers).completes = true ∧ ((quietIn .tick).reply .tickTimers).fault = false ∧
    ((withCore { fake with faultOn := some .tickTimers } .tick).reply .tickTimers).completes = true ∧
    ((withCore { fake with faultOn := some .tickTimers } .tick).reply .tickTimers).fault = true := by decide
theorem witness_SyncWaitsForVsync :
    (inPhase .sync ⟨false, 0, none, true⟩).host.now.vsync = true ∧ (quietIn .sync).host.now.vsync = false := by decide

theorem witness_PhaseFollowsTheSuccessorTable :
    (quietIn .sample).Runs ∧ ∃ t, step (quietIn .sample) = .next t ∧ t.inFlight = none :=
  ⟨(runs_quietIn _).1, _, rfl, rfl⟩

/-- A state in which no line was ever pressed and the surface is clear meets the registers' invariant, in any phase whose
counters and cause fit. -/
theorem inv_of {s : State} (hr : s.Ready) (hp : s.prev = 0) (hd : s.down = 0) (hu : s.up = 0) (hc : s.CounterInv)
    (ha : s.CauseInv) (hs : s.surf.wf = true) (hw : s.shown.wf = true) : s.Inv := by
  refine ⟨hr, ⟨?_, ?_, ?_, fun j => ?_⟩, hc, ha, hs, hw⟩
  · rw [hp]; exact Nat.two_pow_pos _
  · rw [hd]; exact Nat.two_pow_pos _
  · rw [hu]; exact Nat.two_pow_pos _
  · rw [hd, hu]; simp

/-- Two steps into the first frame of a run. -/
def inFrame : State :=
  { quietIn .step with
    stepcnt := 2
    core := .fake { fake with mem := some [], steps := 2 }
    trace := [.bootGo [], .core (.load []), .sample 0, .core .step, .core .step] }

theorem inv_inFrame : inFrame.Inv :=
  inv_of ⟨by decide, by decide, rfl⟩ rfl rfl rfl ⟨by decide, by decide, by decide, by decide⟩ rfl rfl rfl

theorem witness_CountingLawIsKept :
    inFrame.Inv ∧ inFrame.CountInv ∧ ∃ t, step inFrame = .next t ∧ t.phase = .tick :=
  ⟨inv_inFrame, fun _ => ⟨rfl, rfl⟩, _, rfl, rfl⟩

/-- A frame boundary before a frame with a key event, in which the host asserts no reset and raises `vsync` at the last
step. -/
def boundary : State :=
  { quietIn .sample with
    host := ⟨⟨false, 0x0010, none, false⟩, List.replicate 16 HostInput.quiet ++ [⟨false, 0, none, true⟩], 1⟩ }

theorem witness_FrameCompletesWithItsTrace :
    boundary.Inv ∧ boundary.phase = .sample ∧ boundary.inFlight = none ∧
    boundary.core.accepts boundary.cfg (frameCmds boundary.cfg boundary.hostKeys boundary.prev) = true ∧
    frameCmds boundary.cfg boundary.hostKeys boundary.prev =
      [.keyEvent 0x4 true, .step, .step, .step, .tickTimers, .readDisplay] ∧
    boundary.host.NoReset (frameLength boundary.cfg) ∧
    (boundary.host.after (frameLength boundary.cfg - 1)).now.vsync = true := by
  refine ⟨inv_of ⟨by decide, by decide, rfl⟩ rfl rfl rfl ⟨by decide, by decide, by decide, by decide⟩ rfl rfl rfl,
    rfl, rfl, by decide, by decide, ?_, rfl⟩
  show ∀ k, k < 18 → (boundary.host.after k).now.rst = false
  decide

theorem witness_RclearOpensTheViewAndClears :
    ((quietIn .rclear).reply .readDisplay).completes = true ∧ ((quietIn .rclear).reply .readDisplay).fault = false ∧
    ((withCore { fake with faultOn := some .readDisplay } .rclear).reply .readDisplay).completes = true ∧
    ((withCore { fake with faultOn := some .readDisplay } .rclear).reply .readDisplay).fault = true := by decide
theorem witness_RscanPaintsOneCell :
    ((quietIn .rscan).idx < small.cells ∧ (quietIn .rscan).core.pixel 0 = some true) ∧
    (7 < small.cells ∧ (quietIn .rscan).core.pixel 7 = some false) := by decide
theorem witness_FillPaintsExactlyItsSquare :
    (Memory.cleared .bg).wf = true ∧ 6 + 2 ≤ small.surfW ∧ 2 + 2 ≤ small.surfH ∧ 7 < small.surfW := by decide
theorem witness_PresentHandsOverTheSurface :
    Instr.rclear ≠ .present ∧ Instr.rclear ≠ .drawPresent ∧ ∃ t, exec .rclear (quietIn .rclear) = .next t :=
  ⟨by decide, by decide, _, rfl⟩
theorem witness_PixelOrderIsRowMajor :
    (1 ≤ small.width ∧ 1 ≤ small.height ∧ 7 < small.width * small.height) ∧ 3 < small.width := by decide
theorem witness_RectanglesTileTheSurface :
    small.wf = true ∧ 7 < small.cells ∧ 7 < small.surfW ∧ 3 < small.surfH := by decide

/-- The start of the scan: the surface is cleared. -/
def scanning : State := { quietIn .rscan with surf := Memory.cleared .bg }

theorem witness_DisplayGetsTheMagnifiedPixelBuffer :
    scanning.Inv ∧ scanning.RenderInv ∧ ∃ t, step scanning = .next t ∧ t.idx = 1 := by
  refine ⟨inv_of ⟨by decide, by decide, rfl⟩ rfl rfl rfl ⟨by decide, by decide, by decide, by decide⟩ rfl rfl rfl,
    fun x y b _ _ _ => ⟨fun _ => rfl, fun h => ?_, fun h => ?_⟩, _, rfl, rfl⟩
  · cases h
  · cases h

/-- The last cell of a scan: the fills of cells 0, 3, 5 and 6 are in the trace. -/
def lastCell : State :=
  { scanning with
    idx := 7
    trace := [.draw .present, .draw (.clear .bg), .draw (.fill 0 0 2 .fg), .draw (.fill 6 0 2 .fg),
              .draw (.fill 2 2 2 .fg), .draw (.fill 4 2 2 .fg)] }

theorem witness_DrawsSinceTheClearAreTheSetCells :
    (scanning.Inv ∧ scanning.FillInv ∧ ∃ t, step scanning = .next t ∧ t.idx = 1) ∧
    (lastCell.Inv ∧ lastCell.FillInv ∧ ∃ t, step lastCell = .next t ∧ t.phase = .present) ∧
    (lastCell.goto .present).phase = .present ∧ (lastCell.goto .present).FillInv := by
  refine ⟨⟨inv_of ⟨by decide, by decide, rfl⟩ rfl rfl rfl ⟨by decide, by decide, by decide, by decide⟩ rfl rfl rfl,
      ⟨by decide, by decide, by decide⟩, _, rfl, rfl⟩,
    ⟨inv_of ⟨by decide, by decide, rfl⟩ rfl rfl rfl ⟨by decide, by decide, by decide, by decide⟩ rfl rfl rfl,
      ⟨by decide, by decide, by decide⟩, _, rfl, rfl⟩, rfl, by decide, by decide, by decide⟩

theorem witness_BootWaitsAndAborts :
    (quietIn .boot).host.now.boot = none ∧
    (inPhase .boot ⟨false, 0, some (.abort .usage), false⟩).host.now.boot = some (.abort .usage) ∧
    (inPhase .boot ⟨false, 0, some (.abort .romUnreadable), false⟩).host.now.boot = some (.abort .romUnreadable) := by decide
theorem witness_BootLoadsTheImage :
    ((booting small []).host.now.boot = some (.go []) ∧ ([] : List Byte).length < 2 ^ small.lenw ∧
      (booting small []).core.loaded = false ∧ ((booting small []).reply (.load [])).completes = true ∧
      ([] : List Byte).length ≤ small.romMax) ∧
    ((booting tight [1, 2]).host.now.boot = some (.go [1, 2]) ∧ [1, 2].length < 2 ^ tight.lenw ∧
      (booting tight [1, 2]).core.loaded = false ∧ ((booting tight [1, 2]).reply (.load [1, 2])).completes = true ∧
      tight.romMax < [1, 2].length) := by decide
theorem witness_LoadIsRefusedTwiceOrTooLong :
    ((booting tight [1, 2, 3, 4]).host.now.boot = some (.go [1, 2, 3, 4]) ∧ 2 ^ tight.lenw ≤ [1, 2, 3, 4].length) ∧
    ({ booting small [] with core := .fake { fake with mem := some [] } }.host.now.boot = some (.go []) ∧
      ([] : List Byte).length < 2 ^ small.lenw ∧ (Core.fake { fake with mem := some [] }).loaded = true) ∧
    (withCore { fake with mem := some [] } .sample).core.loaded = true := by decide
theorem witness_LoadComesOnceAndFirst :
    ((quietIn .boot).Ready ∧ (quietIn .boot).LoadInv ∧ ∃ t, step (quietIn .boot) = .next t) ∧
    (inFrame.Ready ∧ inFrame.LoadInv ∧ ∃ t, step inFrame = .next t) :=
  ⟨⟨(runs_quietIn _).1.1, ⟨rfl, rfl⟩, _, rfl⟩, inv_inFrame.1, ⟨[], [.step, .step], rfl, rfl⟩, _, rfl⟩

theorem witness_CoreCommandsMoveTheCore :
    ((quietIn .sample).reply .step).completes = true ∧ ((quietIn .sample).reply .step).fault = false ∧
    ((quietIn .sample).reply .tickTimers).fault = false ∧ ((quietIn .sample).reply (.keyEvent 0xF true)).fault = false ∧
    ((withCore { fake with faultOn := some .step } .sample).reply .step).completes = true ∧
    ((withCore { fake with faultOn := some .step } .sample).reply .step).fault = true ∧
    ((withCore { fake with faultOn := some .tickTimers } .sample).reply .tickTimers).fault = true ∧
    ((withCore { fake with faultOn := some (.keyEvent 0xF true) } .sample).reply (.keyEvent 0xF true)).fault = true := by decide
theorem witness_ReadDisplayChangesNoCoreState :
    ((quietIn .sample).reply .readDisplay).completes = true ∧ ((quietIn .sample).reply .readDisplay).fault = false ∧
    ((withCore { fake with faultOn := some .readDisplay } .sample).reply .readDisplay).completes = true ∧
    ((withCore { fake with faultOn := some .readDisplay } .sample).reply .readDisplay).fault = true := by decide
theorem witness_LoadCommandCopiesTheImage :
    [0x12, 0x00].length < 2 ^ small.lenw ∧ [0x12, 0x00].length ≤ small.romMax ∧ (quietIn .boot).core.loaded = false ∧
    ((quietIn .boot).reply (.load [0x12, 0x00])).completes = true ∧
    ((quietIn .boot).reply (.load [0x12, 0x00])).core = .fake { fake with mem := some [0x12, 0x00] } ∧
    ([0x12, 0x00] : List Byte)[1]? = some 0x00 ∧
    ([1, 2] : List Byte).length < 2 ^ tight.lenw ∧ tight.romMax < ([1, 2] : List Byte).length ∧
    (booting tight [1, 2]).core.loaded = false ∧ ((booting tight [1, 2]).reply (.load [1, 2])).completes = true := by decide
theorem witness_FakeCoreTransitions :
    fake.firstStepSets = none ∧ fake.faultOn = none ∧ fake.hangsOn = none ∧ 15 < 16 := by decide
theorem witness_DrawCommandsReachTheSurface : 6 + 2 ≤ small.surfW ∧ 2 + 2 ≤ small.surfH := by decide
theorem witness_AccessesNeverIssuedStop :
    small.cells ≤ { quietIn .rscan with idx := 8 }.idx ∧ small.frameBudget ≤ { quietIn .step with stepcnt := 3 }.stepcnt ∧
    small.surfW < 7 + 2 ∧ small.surfH < 3 + 2 := by decide
theorem witness_CoreChangesOnlyByCommands : ∃ t, exec .step (quietIn .step) = .next t := ⟨_, rfl⟩
theorem witness_PixelBufferIsStableDuringARender :
    (∃ t, exec .rclear (quietIn .rclear) = .next t) ∧ (∃ t, exec .rscan scanning = .next t) ∧
    ∃ t, exec .present (quietIn .present) = .next t := ⟨⟨_, rfl⟩, ⟨_, rfl⟩, _, rfl⟩
theorem witness_HostSignalsAreReadByOneOperation :
    Instr.press ≠ .sample ∧ Instr.sample ≠ .boot ∧ Instr.sample ≠ .sync := by decide

/-- A terminal phase with a word at the inlet and a command recorded as in flight. -/
def stopped (p : Phase) : State := { quietIn p with cmdIn := some (.cc, 0x40), inFlight := some .step }

theorem witness_OffIsEnteredAndKept :
    (stopped .off).cfg.wf = true ∧ (stopped .off).core.fits small = true ∧ (stopped .off).host.now.rst = false ∧
    (stopped .off).phase = .off := by decide
theorem witness_HaltIsEnteredAndKept :
    (((withCore { fake with faultAt := some 1 } .step).reply .step).completes = true ∧
      ((withCore { fake with faultAt := some 1 } .step).reply .step).fault = true) ∧
    (stopped .halt).cfg.wf = true ∧ (stopped .halt).core.fits small = true ∧ (stopped .halt).host.now.rst = false ∧
    (stopped .halt).phase = .halt := by decide
theorem witness_CauseIsWrittenOnce :
    (halted.Inv ∧ halted.host.now.rst = false ∧ (∃ t, step halted = .next t) ∧ halted.cause ≠ .none) ∧
    (aborting.Inv ∧ aborting.host.now.rst = false ∧ ∃ t, step aborting = .next t ∧ t.cause ≠ aborting.cause) :=
  ⟨⟨inv_of ⟨by decide, by decide, rfl⟩ rfl rfl rfl ⟨by decide, by decide, by decide, by decide⟩
      (show 3 ≤ halted.cause.code.toNat by decide) rfl rfl, rfl, ⟨_, rfl⟩, by decide⟩,
    inv_of ⟨by decide, by decide, rfl⟩ rfl rfl rfl ⟨by decide, by decide, by decide, by decide⟩ rfl rfl rfl, rfl,
    _, rfl, by decide⟩
theorem witness_CommandThatNeverCompletesHoldsTheBlock :
    ((withCore { fake with hangsOn := some .step } .step).reply .step).completes = false ∧
    { quietIn .step with inFlight := some .step }.Ready ∧
    { quietIn .step with inFlight := some .step }.host.now.rst = false ∧
    { quietIn .step with inFlight := some .step }.inFlight ≠ none :=
  ⟨by decide, ⟨by decide, by decide, rfl⟩, rfl, by decide⟩
theorem witness_ResetOverridesEverything :
    (inPhase .rscan ⟨true, 0, none, false⟩).cfg.wf = true ∧
    (inPhase .rscan ⟨true, 0, none, false⟩).core.fits small = true ∧
    (inPhase .rscan ⟨true, 0, none, false⟩).host.now.rst = true := by decide
theorem witness_StepRunsTheDecodedInstruction :
    ((quietIn .tick).Runs ∧ decode small .ph (quietIn .tick).phase.code.toNat = .ok .tick) ∧
    ((State.withFetchWord (quietIn .boot) 8 0x40).cfg.wf = true ∧
      (State.withFetchWord (quietIn .boot) 8 0x40).core.fits small = true ∧
      (State.withFetchWord (quietIn .boot) 8 0x40).host.now.rst = false ∧
      (State.withFetchWord (quietIn .boot) 8 0x40).inFlight = none ∧
      (State.withFetchWord (quietIn .boot) 8 0x40).phase ≠ .off ∧
      (State.withFetchWord (quietIn .boot) 8 0x40).phase ≠ .halt ∧ Format.cc ≠ .ph ∧
      (State.withFetchWord (quietIn .boot) 8 0x40).cmdIn = some (.cc, 0x40) ∧
      decode small .cc 0x40 = .ok .coreStep) := ⟨⟨(runs_quietIn _).1, rfl⟩, by decide⟩
theorem witness_StepKeepsTheRegisterInvariant : inFrame.Inv ∧ ∃ t, step inFrame = .next t := ⟨inv_inFrame, _, rfl⟩
theorem witness_ResetMeetsTheInvariants : small.wf = true := by decide
theorem witness_ConfigurationIsNeverWritten : ∃ t, step inFrame = .next t := ⟨_, rfl⟩
theorem witness_SurfaceIsWrittenByDrawCommandsAlone :
    Instr.sync ≠ .rclear ∧ Instr.sync ≠ .rscan ∧ (∀ c, Instr.sync ≠ .drawClear c) ∧
    (∀ x y side c, Instr.sync ≠ .drawFill x y side c) ∧ ∃ t, exec .sync (quietIn .sync) = .next t :=
  ⟨by decide, by decide, (by intro c h; cases h), (by intro x y side c h; cases h), _, rfl⟩

end Sys2Proof.Tests
end

section
/-! PROOFS. O46 (R11): the block moves its core only by a mutating command, and that command stands in the trace. Every
operation either leaves the core and adds events (`KeepsCore`), or does so after sending one command (`State.sent`). -/

namespace Sys2Proof.Machine

/-- From `s` to `t` the core stands still and events are only added to the trace. -/
def KeepsCore (s t : State) : Prop := t.core = s.core ∧ s.trace <+: t.trace

theorem KeepsCore.refl (s : State) : KeepsCore s s := ⟨rfl, List.prefix_rfl⟩

theorem KeepsCore.trans {s t u : State} (h : KeepsCore s t) (h' : KeepsCore t u) : KeepsCore s u :=
  ⟨h'.1.trans h.1, h.2.trans h'.2⟩

/-- A register write that names neither the core nor the trace. -/
theorem KeepsCore.of_eq {s t : State} (hc : t.core = s.core) (ht : t.trace = s.trace) : KeepsCore s t :=
  ⟨hc, ht ▸ List.prefix_rfl⟩

theorem keepsCore_log (e : Event) (s : State) : KeepsCore s (s.log e) := ⟨rfl, List.prefix_append _ _⟩

theorem keepsCore_emit (d : DrawCmd) (s : State) : KeepsCore s (emit d s) := ⟨rfl, List.prefix_append _ _⟩

theorem keepsCore_paintCell (i : Nat) (b : Bool) (s : State) : KeepsCore s (paintCell i b s) := by
  cases b
  · exact .refl s
  · exact keepsCore_emit _ s

/-- However a command ends, only its sending moves the core, when the rest of the operation leaves the core as it is. -/
theorem Issued.keepsCore {c : CoreCmd} {k : State → State} {s t : State} (h : Issued c k s t)
    (hk : ∀ u, KeepsCore u (k u)) : KeepsCore (s.sent c) t := by
  obtain ⟨-, -, rfl⟩ | ⟨-, -, rfl⟩ | ⟨-, rfl⟩ := h
  · exact hk _
  · exact (keepsCore_log (.fault c.cause) _).trans (.of_eq rfl rfl)
  · exact .of_eq rfl rfl

/-- R11 of one transition: the trace grows, and a core that moved was moved by a mutating command among the new events. -/
def CoreMovesByCommand (s t : State) : Prop :=
  ∃ evs, t.trace = s.trace ++ evs ∧
    (t.core = s.core ∨ ∃ c, c ≠ CoreCmd.readDisplay ∧ Event.core c ∈ evs ∧ t.core = (s.reply c).core)

theorem KeepsCore.coreMovesByCommand {s t : State} (h : KeepsCore s t) : CoreMovesByCommand s t := by
  obtain ⟨hc, evs, ht⟩ := h
  exact ⟨evs, ht.symm, .inl hc⟩

/-- After a command is sent and the core then kept, that command accounts for the move; `read_display()` makes none. -/
theorem CoreMovesByCommand.of_sent {c : CoreCmd} {s t : State} (h : KeepsCore (s.sent c) t) :
    CoreMovesByCommand s t := by
  obtain ⟨hc, evs, ht⟩ := h
  refine ⟨.core c :: evs, by simp [← ht], ?_⟩
  by_cases hr : c = .readDisplay
  · subst hr
    exact .inl (by simp [hc, State.reply])
  · exact .inr ⟨c, hr, by simp, hc⟩

theorem Issued.coreMovesByCommand {c : CoreCmd} {k : State → State} {s t : State} (h : Issued c k s t)
    (hk : ∀ u, KeepsCore u (k u)) : CoreMovesByCommand s t := .of_sent (h.keepsCore hk)

/-- An event logged before the transition joins those it adds. -/
theorem CoreMovesByCommand.of_log {e : Event} {s t : State} (h : CoreMovesByCommand (s.log e) t) :
    CoreMovesByCommand s t := by
  obtain ⟨evs, ht, hc⟩ := h
  refine ⟨e :: evs, by simp [ht], hc.imp id ?_⟩
  rintro ⟨c, hr, hmem, hcore⟩
  exact ⟨c, hr, List.mem_cons_of_mem _ hmem, hcore⟩

theorem exec_coreMovesByCommand {i : Instr} {s t : State} (h : exec i s = .next t) : CoreMovesByCommand s t := by
  cases i with
  | off | halt => injection h with h; subst h; exact (KeepsCore.refl s).coreMovesByCommand
  | kmap v => injection h with h; subst h; exact (KeepsCore.of_eq rfl rfl).coreMovesByCommand
  | boot =>
    obtain ⟨-, rfl⟩ | ⟨r, -, rfl⟩ | ⟨rom, -, -, -, hi⟩ := exec_boot_next h
    · exact (KeepsCore.refl _).coreMovesByCommand
    · exact ((keepsCore_log (.bootAbort r) s).trans (.of_eq rfl rfl)).coreMovesByCommand
    · exact (hi.coreMovesByCommand fun _ => .of_eq rfl rfl).of_log
  | sample =>
    injection h with h; subst h
    exact ((keepsCore_log (.sample s.hostKeys) s).trans (.of_eq rfl rfl)).coreMovesByCommand
  | press =>
    obtain ⟨-, rfl⟩ | ⟨k, -, hi⟩ := exec_press_next h
    · exact (KeepsCore.of_eq rfl rfl).coreMovesByCommand
    · exact hi.coreMovesByCommand fun _ => .of_eq rfl rfl
  | release =>
    obtain ⟨-, rfl⟩ | ⟨k, -, hi⟩ := exec_release_next h
    · exact (KeepsCore.of_eq rfl rfl).coreMovesByCommand
    · exact hi.coreMovesByCommand fun _ => .of_eq rfl rfl
  | step => exact (exec_step_next h).2.coreMovesByCommand fun _ => .of_eq rfl rfl
  | tick => exact (exec_tick_next h).coreMovesByCommand fun _ => .of_eq rfl rfl
  | rclear =>
    exact (exec_rclear_next h).coreMovesByCommand fun u => (keepsCore_emit (.clear .bg) u).trans (.of_eq rfl rfl)
  | rscan =>
    obtain ⟨-, b, -, rfl⟩ := exec_rscan_next h
    exact ((keepsCore_paintCell s.idx b s).trans (.of_eq rfl rfl)).coreMovesByCommand
  | present =>
    injection h with h; subst h
    exact ((keepsCore_emit .present s).trans (.of_eq rfl rfl)).coreMovesByCommand
  | sync =>
    obtain ⟨-, rfl⟩ | ⟨-, rfl⟩ := exec_sync_next h
    · exact ((keepsCore_log .vsync s).trans (.of_eq rfl rfl)).coreMovesByCommand
    · exact (KeepsCore.refl _).coreMovesByCommand
  | coreLoad bytes =>
    obtain ⟨-, -, rfl⟩ := issueLoad_next h
    exact (issued _ _ s).coreMovesByCommand .refl
  | coreStep | coreTickTimers | coreKeyEvent | coreReadDisplay =>
    injection h with h; subst h; exact (issued _ _ s).coreMovesByCommand .refl
  | drawClear | drawPresent => injection h with h; subst h; exact (keepsCore_emit _ s).coreMovesByCommand
  | drawFill x y side c =>
    obtain ⟨-, rfl⟩ := exec_drawFill_next h
    exact (keepsCore_emit _ s).coreMovesByCommand

/-- Settles O46: each operation is a `KeepsCore` transition, or one that follows the sending of a single core command. -/
theorem coreChangesOnlyByCommands : Obligations.CoreChangesOnlyByCommands := by
  unfold Obligations.CoreChangesOnlyByCommands
  intro i s t h
  exact exec_coreMovesByCommand h

end Sys2Proof.Machine
end

section
/-! PROOFS. O17 (R23): how the two sets of a SAMPLE lie to the vector it read, which becomes `PREV`. -/

namespace Sys2Proof

/-- Every newly pressed line is pressed in the current vector. -/
theorem Config.newlyPressed_and_cur (cfg : Config) (cur prev : Lines) :
    cfg.newlyPressed cur prev &&& cur = cfg.newlyPressed cur prev := by
  refine Nat.eq_of_testBit_eq fun j => ?_
  cases hcur : cur.testBit j <;> simp [hcur]

/-- No newly released line is pressed in the current vector. -/
theorem Config.newlyReleased_and_cur (cfg : Config) (cur prev : Lines) :
    cfg.newlyReleased cur prev &&& cur = 0 := by
  refine Nat.eq_of_testBit_eq fun j => ?_
  cases hcur : cur.testBit j <;> simp [hcur]

/-- The current vector separates the two sets: it contains the one and misses the other. -/
theorem Config.newlyPressed_and_newlyReleased (cfg : Config) (cur prev : Lines) :
    cfg.newlyPressed cur prev &&& cfg.newlyReleased cur prev = 0 := by
  rw [← cfg.newlyPressed_and_cur, Nat.and_assoc, Nat.and_comm cur, cfg.newlyReleased_and_cur, Nat.and_zero]

end Sys2Proof

namespace Sys2Proof.Machine

/-- Settles O17: SAMPLE leaves in `PREV` the vector it read, so R23 is what the two sets have to do with that vector. -/
theorem transitionSetsAreDisjoint : Obligations.TransitionSetsAreDisjoint := by
  unfold Obligations.TransitionSetsAreDisjoint
  intro s
  exact ⟨_, rfl, s.cfg.newlyPressed_and_newlyReleased s.hostKeys s.prev,
    s.cfg.newlyPressed_and_cur s.hostKeys s.prev, s.cfg.newlyReleased_and_cur s.hostKeys s.prev⟩

end Sys2Proof.Machine
end

section
/-! PROOFS. O32 (R57): the pixel order is row-major, and `y*W + x` inverts the coordinates of a cell. -/

namespace Sys2Proof

/-- The column of the cell with index `y*W + x`. -/
theorem Config.cellX_mul_add {cfg : Config} {x : Nat} (hx : x < cfg.width) (y : Nat) :
    cfg.cellX (y * cfg.width + x) = x := by
  rw [Config.cellX, Nat.mul_add_mod', Nat.mod_eq_of_lt hx]

/-- The row of the cell with index `y*W + x`. -/
theorem Config.cellY_mul_add {cfg : Config} {x : Nat} (hx : x < cfg.width) (y : Nat) :
    cfg.cellY (y * cfg.width + x) = y :=
  Nat.div_eq_of_lt_le (Nat.le_add_right _ _) (by rw [Nat.succ_mul]; exact Nat.add_lt_add_left hx _)

/-- The last index is that of the last column of the last row. -/
theorem Config.cells_sub_one {cfg : Config} (hw : 1 ≤ cfg.width) (hh : 1 ≤ cfg.height) :
    cfg.cells - 1 = (cfg.height - 1) * cfg.width + (cfg.width - 1) := by
  have hrows : cfg.cells = (cfg.height - 1) * cfg.width + cfg.width := by
    rw [← Nat.succ_mul, Nat.succ_eq_add_one, Nat.sub_add_cancel hh, Nat.mul_comm, Config.cells]
  rw [hrows, Nat.add_sub_assoc hw]

/-- Settles O32: `cell_eq` rebuilds an index from its coordinates, `cellX_mul_add` and `cellY_mul_add` the coordinates
from their index, and the bottom right corner is the case `x = W - 1`, `y = H - 1` of the latter two. -/
theorem pixelOrderIsRowMajor : Obligations.PixelOrderIsRowMajor := by
  unfold Obligations.PixelOrderIsRowMajor
  refine ⟨fun cfg i hw hi => ?_, fun cfg x y hx => ?_, fun cfg hw hh => ?_⟩
  · exact ⟨rfl, rfl, Config.cellX_lt hw i, Config.cellY_lt hi, cfg.cell_eq i⟩
  · exact ⟨Config.cellX_mul_add hx y, Config.cellY_mul_add hx y⟩
  · have hx : cfg.width - 1 < cfg.width := Nat.sub_one_lt_of_lt hw
    have hlast : cfg.width * cfg.height - 1 = (cfg.height - 1) * cfg.width + (cfg.width - 1) :=
      Config.cells_sub_one hw hh
    rw [hlast]
    exact ⟨Nat.zero_mod _, Nat.zero_div _, Config.cellX_mul_add hx _, Config.cellY_mul_add hx _⟩

end Sys2Proof
end

section
/-! PROOFS. O6 (R83): a `KEYMAP` entry and its word, whose low four bits are the key and whose rest is the line. -/

namespace Sys2Proof

/-- The bits above the key are the line. -/
@[simp] theorem encodeKT_div (e : KeyEntry) : encodeKT e / 16 = e.hline := by
  have hkey : e.lkey.toNat < 16 := e.lkey.isLt
  rw [encodeKT]
  omega

/-- The low four bits are the key. -/
@[simp] theorem encodeKT_mod (e : KeyEntry) : encodeKT e % 16 = e.lkey.toNat := by
  rw [encodeKT, Nat.mul_add_mod']
  exact Nat.mod_eq_of_lt e.lkey.isLt

/-- A host line fits the `hline` field. -/
theorem Config.lt_hlw {cfg : Config} {j : Nat} (h : j < cfg.nhk) : j < 2 ^ cfg.hlw :=
  Nat.lt_of_lt_of_le h (le_two_pow_fieldWidth _)

/-- An entry of one of the block's lines fits `HLW + 4` bits. -/
theorem encodeKT_lt {cfg : Config} {e : KeyEntry} (h : e.hline < cfg.nhk) : encodeKT e < 2 ^ (cfg.hlw + 4) := by
  have hdiv : encodeKT e / 16 < 2 ^ cfg.hlw := by
    rw [encodeKT_div]
    exact Config.lt_hlw h
  rw [Nat.pow_add]
  exact (Nat.div_lt_iff_lt_mul (by decide)).mp hdiv

theorem decodeKT_encodeKT {cfg : Config} {e : KeyEntry} (h : e.hline < cfg.nhk) : decodeKT cfg (encodeKT e) = e := by
  have hline : encodeKT e / 16 % 2 ^ cfg.hlw = e.hline := by
    rw [encodeKT_div, Nat.mod_eq_of_lt (Config.lt_hlw h)]
  have hkey : BitVec.ofNat 4 (encodeKT e) = e.lkey := BitVec.eq_of_toNat_eq (encodeKT_mod e)
  rw [decodeKT, hline, hkey]

/-- Settles O6: the word splits at bit 4 into the line and the key, and a line below `NHK` fits its field. -/
theorem keymapEntryFormat : Obligations.KeymapEntryFormat := by
  unfold Obligations.KeymapEntryFormat
  refine ⟨fun cfg e h => ?_, fun _ => rfl, by decide, by decide⟩
  exact ⟨encodeKT_lt h, decodeKT_encodeKT h, encodeKT_div e, encodeKT_mod e⟩

end Sys2Proof
end

section
/-! PROOFS. O9 (R93): `Config.wf` is the list of the constraints of R5, and `fetch` tests it before anything else. -/

namespace Sys2Proof

theorem distinctLines_iff (table : List KeyEntry) :
    distinctLines table = true ↔ (table.map KeyEntry.hline).Pairwise (· ≠ ·) := by
  induction table with
  | nil => simp [distinctLines]
  | cons e rest ih => simp [distinctLines, ih, ne_comm]

/-- The constraints of R5, one by one. The bound on a logical key holds of every key, since its type is four bits. -/
theorem Config.wf_iff (cfg : Config) :
    cfg.wf = true ↔
      1 ≤ cfg.width ∧ 1 ≤ cfg.height ∧ 1 ≤ cfg.scale ∧ 1 ≤ cfg.frameBudget ∧ 16 ≤ cfg.nhk ∧ cfg.keymap.length = 16 ∧
      (∀ e ∈ cfg.keymap, e.hline < cfg.nhk ∧ e.lkey.toNat ≤ 0xF) ∧
      (cfg.keymap.map KeyEntry.hline).Pairwise (· ≠ ·) ∧ 1 ≤ cfg.lenw := by
  have hkey (e : KeyEntry) : e.lkey.toNat ≤ 0xF := Nat.le_of_lt_succ e.lkey.isLt
  simp only [Config.wf, Bool.and_eq_true, decide_eq_true_eq, List.all_eq_true, distinctLines_iff, hkey, and_true,
    and_assoc]

end Sys2Proof

namespace Sys2Proof.Machine

theorem fetch_of_illFormed {s : State} (h : s.cfg.wf = false) : fetch s = .reject .illFormedConfig := if_pos h

/-- Whatever else the state holds, `rst` included. -/
theorem step_of_illFormed {s : State} (h : s.cfg.wf = false) : step s = .refused .illFormedConfig := by
  rw [step, fetch_of_illFormed h]

/-- Settles O9: `Config.wf_iff` is the first clause, and the refusal is the first test of `fetch`. -/
theorem illFormedConfigurationIsRefused : Obligations.IllFormedConfigurationIsRefused := by
  unfold Obligations.IllFormedConfigurationIsRefused
  exact ⟨Config.wf_iff, fun _ => step_of_illFormed⟩

end Sys2Proof.Machine
end

section
/-! PROOFS. O4 (R81, R91): the codes of `PHASE` as the decoder of format PH reads them. -/

namespace Sys2Proof

open Machine

@[simp] theorem Machine.Phase.ofCode_code (p : Phase) : Phase.ofCode p.code.toNat = some p := by
  cases p <;> rfl

theorem Machine.Phase.ofCode_reserved {w : Nat} (hlo : 0xB ≤ w) (hhi : w ≤ 0xE) : Phase.ofCode w = none := by
  interval_cases w <;> rfl

/-- A phase's code reads as the operation the phase selects. -/
theorem decodePH_code (p : Phase) : decodePH p.code.toNat = .ok p.instr := by
  have hwidth : ¬ 16 ≤ p.code.toNat := Nat.not_le.mpr p.code.isLt
  simp [decodePH, hwidth]

/-- A code of four bits that names no phase is reserved. -/
theorem decodePH_eq_reservedPhase {w : Nat} (hw : w < 16) (h : Phase.ofCode w = none) :
    decodePH w = .error .reservedPhase := by
  simp [decodePH, Nat.not_le.mpr hw, h]

/-- Settles O4: the table is the definition of `Phase.code`; each of its codes names its phase, and those in its gap name
none. -/
theorem phaseCodesAreTheTable : Obligations.PhaseCodesAreTheTable := by
  unfold Obligations.PhaseCodesAreTheTable
  refine ⟨rfl, fun _ p => decodePH_code p, fun _ w hlo hhi => ?_⟩
  exact decodePH_eq_reservedPhase (Nat.lt_of_le_of_lt hhi (by decide)) (Phase.ofCode_reserved hlo hhi)

end Sys2Proof
end

section
/-! PROOFS. O5 (R82) and O7 (R84): a KE word is its `pressed` bit before the four bits of the key, and the KO word of a
real key is the KE word of its press. -/

namespace Sys2Proof

@[simp] theorem toNat_encodeKE (pressed : Bool) (key : Key) :
    (encodeKE pressed key).toNat = pressed.toNat * 16 + key.toNat := by
  have hpressed : pressed.toNat ≤ 1 := pressed.toNat_le
  have hkey : key.toNat < 16 := key.isLt
  exact Nat.mod_eq_of_lt (by omega)

/-- The fields of R82, as one bit put before four. -/
theorem encodeKE_eq_cons (pressed : Bool) (key : Key) : encodeKE pressed key = BitVec.cons pressed key := by
  refine BitVec.eq_of_toNat_eq ?_
  rw [toNat_encodeKE, BitVec.toNat_cons', Nat.shiftLeft_eq]

/-- Bit 4 is `pressed`. -/
@[simp] theorem getLsbD_encodeKE_four (pressed : Bool) (key : Key) : (encodeKE pressed key).getLsbD 4 = pressed := by
  rw [encodeKE_eq_cons, BitVec.getLsbD_cons, if_pos rfl]

/-- Bits 3 to 0 are the key's. -/
theorem getLsbD_encodeKE_of_lt (pressed : Bool) (key : Key) {j : Nat} (hj : j < 4) :
    (encodeKE pressed key).getLsbD j = key.getLsbD j := by
  rw [encodeKE_eq_cons, BitVec.getLsbD_cons, if_neg (Nat.ne_of_lt hj)]

theorem decodeKE_encodeKE (pressed : Bool) (key : Key) : decodeKE (encodeKE pressed key) = (pressed, key) := by
  rw [decodeKE, getLsbD_encodeKE_four, BitVec.ofNat_toNat, encodeKE_eq_cons, BitVec.setWidth_cons]

/-- Every word is the word of the KeyEvent it holds. -/
theorem encodeKE_decodeKE (w : BitVec 5) : encodeKE (decodeKE w).1 (decodeKE w).2 = w := by
  rw [encodeKE_eq_cons, decodeKE, BitVec.ofNat_toNat]
  exact BitVec.cons_msb_setWidth w

/-- The valid bit stands where a press has its `pressed` bit. -/
theorem encodeKO_some (key : Key) : encodeKO (some key) = encodeKE true key := rfl

theorem decodeKO_encodeKO (r : Option Key) : decodeKO (encodeKO r) = some r := by
  cases r with
  | none => rfl
  | some key =>
    have hkey : BitVec.ofNat 4 (encodeKE true key).toNat = key := congrArg Prod.snd (decodeKE_encodeKE true key)
    rw [encodeKO_some, decodeKO, getLsbD_encodeKE_four, if_pos rfl, hkey]

/-- Settles O5: the fields are read off bit by bit, and `decodeKE` finds the event of any word. -/
theorem keyEventFormat : Obligations.KeyEventFormat := by
  unfold Obligations.KeyEventFormat
  refine ⟨fun p k => ⟨getLsbD_encodeKE_four p k, fun j hj => ?_⟩, fun w => ⟨_, _, encodeKE_decodeKE w⟩⟩
  exact getLsbD_encodeKE_of_lt p k hj

/-- Settles O7: a key's word is that of its press, whose bit 4 is set, and the word of `none` has no bit set. -/
theorem keymapResultFormat : Obligations.KeymapResultFormat := by
  unfold Obligations.KeymapResultFormat
  refine ⟨rfl, fun k => ?_, rfl, decodeKO_encodeKO, by decide⟩
  exact ⟨toNat_encodeKE true k, getLsbD_encodeKE_four true k⟩

end Sys2Proof
end

section
/-! PROOFS. O11 (R111), O12 (R112) and O13 (R114): the keymap function is the library's first-match search over the
table, and so gives the key of the earliest entry whose line is pressed. -/

namespace Sys2Proof

/-- R110 as a search: the key of the first entry whose line is pressed. -/
theorem kmOf_eq_map_find? (table : List KeyEntry) (v : Lines) :
    kmOf table v = (table.find? fun e => v.testBit e.hline).map KeyEntry.lkey := by
  induction table with
  | nil => rfl
  | cons e rest ih => cases h : v.testBit e.hline <;> simp [kmOf_cons, h, ih]

/-- The search stops at the entry whose line is pressed while no earlier entry's is. -/
theorem find?_pressed_eq_some_iff (table : List KeyEntry) (v : Lines) (e : KeyEntry) :
    (table.find? fun e => v.testBit e.hline) = some e ↔
      ∃ p, table[p]? = some e ∧ v.testBit e.hline = true ∧
        ∀ (q : Nat) (e' : KeyEntry), q < p → table[q]? = some e' → v.testBit e'.hline = false := by
  rw [List.find?_eq_some_iff_getElem]
  constructor
  · rintro ⟨hpressed, p, hp, rfl, hearlier⟩
    refine ⟨p, List.getElem?_eq_getElem hp, hpressed, fun q e' hq he' => ?_⟩
    obtain ⟨_, rfl⟩ := List.getElem?_eq_some_iff.mp he'
    simpa using hearlier q hq
  · rintro ⟨p, he, hpressed, hearlier⟩
    obtain ⟨hp, hget⟩ := List.getElem?_eq_some_iff.mp he
    refine ⟨hpressed, p, hp, hget, fun q hq => ?_⟩
    simpa using hearlier q _ hq (List.getElem?_eq_getElem (hq.trans hp))

/-- `KM` is `k` exactly when `k` is the key of the earliest entry whose line is pressed. -/
theorem kmOf_eq_some_iff (table : List KeyEntry) (v : Lines) (k : Key) :
    kmOf table v = some k ↔
      ∃ (p : Nat) (e : KeyEntry), table[p]? = some e ∧ e.lkey = k ∧ v.testBit e.hline = true ∧
        ∀ (q : Nat) (e' : KeyEntry), q < p → table[q]? = some e' → v.testBit e'.hline = false := by
  simp only [kmOf_eq_map_find?, Option.map_eq_some_iff, find?_pressed_eq_some_iff]
  constructor
  · rintro ⟨e, ⟨p, he, hfirst⟩, hkey⟩
    exact ⟨p, e, he, hkey, hfirst⟩
  · rintro ⟨p, e, he, hkey, hfirst⟩
    exact ⟨e, ⟨p, he, hfirst⟩, hkey⟩

/-- Settles O11: `kmOf_eq_some_iff` and `kmOf_eq_none` over the block's own table, and R110's worked example. -/
theorem keymapFirstMatchWins : Obligations.KeymapFirstMatchWins := by
  unfold Obligations.KeymapFirstMatchWins
  exact ⟨fun cfg => kmOf_eq_some_iff cfg.keymap, fun cfg => kmOf_eq_none cfg.keymap, by decide, by decide⟩

/-- Settles O12: `kmOf_congr` needs agreement on the lines of the entries alone, and when each pressed line is unmapped
no entry's line is pressed. -/
theorem unmappedLinesAreIgnored : Obligations.UnmappedLinesAreIgnored := by
  unfold Obligations.UnmappedLinesAreIgnored
  refine ⟨fun cfg u v hagree => ?_, fun cfg v hunmapped => ?_⟩
  · exact kmOf_congr fun e he => hagree e.hline ⟨e, he, rfl⟩
  · refine (kmOf_eq_none _ _).mpr fun e he => Bool.eq_false_iff.mpr fun hpressed => ?_
    exact hunmapped e.hline hpressed ⟨e, he, rfl⟩

/-- Settles O13: when every other entry's line is released, so is every earlier entry's; and the empty set presses no
entry's line. -/
theorem singleMappedKeyIsReported : Obligations.SingleMappedKeyIsReported := by
  unfold Obligations.SingleMappedKeyIsReported
  refine ⟨fun cfg v p e he hpressed hothers => ?_, fun cfg => ?_, by decide, by decide, by decide⟩
  · exact (kmOf_eq_some_iff _ _ _).mpr ⟨p, e, he, rfl, hpressed, fun q e' hq => hothers q e' hq.ne⟩
  · exact (kmOf_eq_none _ _).mpr fun e _ => Nat.zero_testBit e.hline

end Sys2Proof
end

section
/-! PROOFS. O19 (R121) and O20 (R122): a running state performs the operation of its phase, and PRESS and RELEASE issue
the `key_event` of the key their keymap result names, or nothing. -/

namespace Sys2Proof.Machine

/-! ### The step of a running state -/

/-- A running state fetches the operation `PHASE` selects, and runs it on itself (R21). -/
theorem State.Runs.fetch_eq {s : State} (h : s.Runs) : fetch s = .run s.phase.instr s := by
  obtain ⟨⟨hwf, hfits, hcmd⟩, hrst, hfly⟩ := h
  simp [fetch, fetched, State.inlet_of_cmdIn hcmd, hwf, hfits, hrst, hfly]

theorem State.Runs.step_eq {s : State} (h : s.Runs) : step s = afterExec (exec s.phase.instr s) := by
  rw [step, h.fetch_eq]

/-! ### A core command that faults -/

/-- A core fault always ends in HALT (R210, R218). -/
@[simp] theorem CoreCmd.cause_terminal (c : CoreCmd) : c.cause.terminal = .halt := by cases c <;> rfl

/-- The whole state after a fault: the rest of the operation is left out (R218). -/
theorem issue_fault_eq {c : CoreCmd} {k : State → State} {s : State} (hc : (s.reply c).completes = true)
    (hf : (s.reply c).fault = true) :
    issue c k s = { s with phase := .halt, cause := c.cause, core := (s.reply c).core,
                           trace := s.trace ++ [.core c, .fault c.cause] } := by
  rw [issue_fault hc hf, raise, CoreCmd.cause_terminal]
  simp [State.goto, State.setCause, State.log, State.sent, State.setCore]

/-! ### PRESS and RELEASE -/

theorem exec_press_of_km_none {s : State} (h : s.cfg.km s.down = none) : exec .press s = .next (s.goto .release) := by
  rw [exec, execPress, h, report]

theorem exec_press_of_km_some {s : State} {k : Key} (h : s.cfg.km s.down = some k) :
    exec .press s = .next (issue (.keyEvent k true) (fun t => t.goto .release) s) := by
  rw [exec, execPress, h, report]

theorem exec_release_of_km_none {s : State} (h : s.cfg.km s.up = none) :
    exec .release s = .next ((s.setStepcnt 0).goto .step) := by
  rw [exec, execRelease, h, report]

theorem exec_release_of_km_some {s : State} {k : Key} (h : s.cfg.km s.up = some k) :
    exec .release s = .next (issue (.keyEvent k false) (fun t => (t.setStepcnt 0).goto .step) s) := by
  rw [exec, execRelease, h, report]

/-- The CC word of a `key_event` is its op over the event's KE word (R82, R85). -/
theorem toNat_word_keyEvent (k : Key) (p : Bool) :
    (CoreCmd.keyEvent k p).word.toNat = 0x80 + (0x10 * p.toNat + k.toNat) := by
  have hp : p.toNat ≤ 1 := p.toNat_le
  have hk : k.toNat < 16 := k.isLt
  exact Nat.mod_eq_of_lt (by omega)

/-- Settles O19: an empty keymap result changes only the phase, and a key is issued as its press, which `issue_done` and
`issue_fault_eq` follow to its two ends. -/
theorem pressReportsOneNewKey : Obligations.PressReportsOneNewKey := by
  unfold Obligations.PressReportsOneNewKey
  refine ⟨fun s hruns hphase => ?_, fun s hkm => exec_press_of_km_none hkm,
    fun s k hkm hc => ⟨fun hf => ?_, fun hf => ?_⟩, fun k => ?_, rfl, rfl, by decide, rfl⟩
  · rw [hruns.step_eq, hphase, Phase.instr]
  · rw [exec_press_of_km_some hkm, issue_done hc hf]
    rfl
  · rw [exec_press_of_km_some hkm, issue_fault_eq hc hf, CoreCmd.cause]
  · rw [toNat_word_keyEvent, Bool.toNat_true]
    omega

/-- Settles O20: as for PRESS, on the released lines; the counter is cleared in the rest of the operation, which a fault
leaves out. -/
theorem releaseReportsOneKeyAndClearsTheCounter : Obligations.ReleaseReportsOneKeyAndClearsTheCounter := by
  unfold Obligations.ReleaseReportsOneKeyAndClearsTheCounter
  refine ⟨fun s hruns hphase => ?_, fun s hkm => exec_release_of_km_none hkm,
    fun s k hkm hc => ⟨fun hf => ?_, fun hf => ?_⟩, fun k => ?_, rfl, by decide, rfl⟩
  · rw [hruns.step_eq, hphase, Phase.instr]
  · rw [exec_release_of_km_some hkm, issue_done hc hf]
    rfl
  · rw [exec_release_of_km_some hkm, issue_fault_eq hc hf, CoreCmd.cause]
  · rw [toNat_word_keyEvent, Bool.toNat_false]
    omega

end Sys2Proof.Machine
end

section
/-! PROOFS. O26 (R144): the counting law. Three events are counted, `vsync`, `step()` and `tick_timers()`; only SYNC, STEP
and TICK add one, and each of them moves `PHASE` to the row of R144 that its new count meets. -/

namespace Sys2Proof.Machine

/-! ### The counts of a trace, event by event -/

@[simp] theorem stepsIn_nil : stepsIn [] = 0 := rfl
@[simp] theorem ticksIn_nil : ticksIn [] = 0 := rfl
@[simp] theorem framesIn_nil : framesIn [] = 0 := rfl

@[simp] theorem stepsIn_cons (e : Event) (es : List Event) :
    stepsIn (e :: es) = stepsIn es + if e = .core .step then 1 else 0 := by
  simp [stepsIn, List.count_cons]

@[simp] theorem ticksIn_cons (e : Event) (es : List Event) :
    ticksIn (e :: es) = ticksIn es + if e = .core .tickTimers then 1 else 0 := by
  simp [ticksIn, List.count_cons]

@[simp] theorem framesIn_cons (e : Event) (es : List Event) :
    framesIn (e :: es) = framesIn es + if e = .vsync then 1 else 0 := by
  simp [framesIn, List.count_cons]

/-- A cell's fill is not counted. -/
theorem paintCell_counts (i : Nat) (b : Bool) (s : State) :
    stepsIn (paintCell i b s).trace = stepsIn s.trace ∧ ticksIn (paintCell i b s).trace = ticksIn s.trace ∧
    framesIn (paintCell i b s).trace = framesIn s.trace := by
  cases b <;> simp [paintCell]

/-! ### Where the law holds whatever the counts are -/

theorem State.countInv_of_isTerminal {s : State} (h : s.phase.isTerminal = true) : s.CountInv := by
  intro _
  cases hp : s.phase with
  | off | halt => trivial
  | _ => rw [hp] at h; cases h

theorem State.countInv_of_inFlight {s : State} (h : s.inFlight ≠ none) : s.CountInv := fun hnone => absurd hnone h

theorem State.countInv_resetOf (cfg : Config) : (State.resetOf cfg).CountInv := fun _ => ⟨rfl, rfl⟩

theorem countInv_hardReset (s : State) : (hardReset s).CountInv := fun _ => ⟨rfl, rfl⟩

theorem countInv_raise (c : Cause) (s : State) : (raise c s).CountInv :=
  State.countInv_of_isTerminal (by cases c <;> rfl)

/-- The host's signals are not counted. -/
theorem State.CountInv.advance {s : State} (h : s.CountInv) : s.advance.CountInv := h

/-- A command that faults or never completes leaves the law nothing to say; only its success is to be checked. -/
theorem Issued.countInv {c : CoreCmd} {k : State → State} {s t : State} (h : Issued c k s t)
    (hk : (k (s.sent c)).CountInv) : t.CountInv := by
  obtain ⟨-, -, rfl⟩ | ⟨-, -, rfl⟩ | ⟨-, rfl⟩ := h
  · exact hk
  · exact countInv_raise _ _
  · exact State.countInv_of_inFlight (by simp)

/-! ### Every operation of `PHASE` keeps the law -/

/-- STEP's count meets the row of the phase it goes to: STEP's while the budget is not reached, TICK's when it is. -/
theorem exec_step_countInv {s t : State} (hS : stepsIn s.trace = s.cfg.frameBudget * framesIn s.trace + s.stepcnt)
    (hT : ticksIn s.trace = framesIn s.trace) (h : exec .step s = .next t) : t.CountInv := by
  obtain ⟨-, hi⟩ := exec_step_next h
  refine hi.countInv fun _ => ?_
  by_cases hlast : s.stepcnt + 1 = s.cfg.frameBudget
  · have hcount : stepsIn s.trace + 1 = s.cfg.frameBudget * (framesIn s.trace + 1) := by
      rw [hS, Nat.add_assoc, hlast, Nat.mul_succ]
    simpa [phaseAfterStep, hlast, hT] using hcount
  · simp [phaseAfterStep, hlast, hS, hT, Nat.add_assoc]

/-- RSCAN counts nothing, and both phases it can go to are in its own row. -/
theorem exec_rscan_countInv {s t : State} (hS : stepsIn s.trace = s.cfg.frameBudget * (framesIn s.trace + 1))
    (hT : ticksIn s.trace = framesIn s.trace + 1) (h : exec .rscan s = .next t) : t.CountInv := by
  obtain ⟨-, b, -, rfl⟩ := exec_rscan_next h
  obtain ⟨hsteps, hticks, hframes⟩ := paintCell_counts s.idx b s
  have hcfg := (paintCell_frame s.idx b s).1
  intro _
  by_cases hlast : s.idx + 1 = s.cfg.cells
  all_goals simp [phaseAfterScan, hlast, hcfg, hsteps, hticks, hframes, hS, hT]

theorem exec_phase_countInv {s t : State} (hfly : s.inFlight = none) (hs : s.CountInv)
    (h : exec s.phase.instr s = .next t) : t.CountInv := by
  have hrow := hs hfly
  cases hp : s.phase <;> rw [hp] at h hrow
  case off | halt => injection h with h; exact h ▸ hs
  case boot =>
    obtain ⟨-, rfl⟩ | ⟨r, -, rfl⟩ | ⟨rom, -, -, -, hi⟩ := exec_boot_next h
    · exact hs
    · exact countInv_raise _ _
    · exact hi.countInv fun _ => by simpa using hrow
  case sample => injection h with h; subst h; exact fun _ => by simpa using hrow
  case press =>
    obtain ⟨-, rfl⟩ | ⟨k, -, hi⟩ := exec_press_next h
    · exact fun _ => hrow
    · exact hi.countInv fun _ => by simpa using hrow
  case release =>
    obtain ⟨-, rfl⟩ | ⟨k, -, hi⟩ := exec_release_next h
    · exact fun _ => hrow
    · exact hi.countInv fun _ => by simpa using hrow
  case step =>
    obtain ⟨hS, hT⟩ := hrow
    exact exec_step_countInv hS hT h
  case tick => exact (exec_tick_next h).countInv fun _ => by simpa using hrow
  case rclear => exact (exec_rclear_next h).countInv fun _ => by simpa using hrow
  case rscan =>
    obtain ⟨hS, hT⟩ := hrow
    exact exec_rscan_countInv hS hT h
  case present => injection h with h; subst h; exact fun _ => by simpa using hrow
  case sync =>
    obtain ⟨-, rfl⟩ | ⟨-, rfl⟩ := exec_sync_next h
    · exact fun _ => by simpa using hrow
    · exact hs

/-- Settles O26: a reset starts the counts at zero, a command in flight suspends the law, and the operation of `PHASE` keeps
it. -/
theorem countingLawIsKept : Obligations.CountingLawIsKept := by
  unfold Obligations.CountingLawIsKept
  refine ⟨State.countInv_resetOf, fun s t hinv hs h => ?_⟩
  obtain ⟨hready, -⟩ := hinv
  obtain ⟨-, rfl⟩ | ⟨-, hfly, rfl⟩ | ⟨-, hfly, u, hu, rfl⟩ := step_ready_cases hready h
  · exact (countInv_hardReset s).advance
  · exact hs.advance
  · exact (exec_phase_countInv hfly hs hu).advance

end Sys2Proof.Machine
end

section
/-! PROOFS. O21 (R138) and O22 (R139): STEP and TICK issue one command each; the rest of the operation, which a fault leaves
out, writes the counter and the phase. -/

namespace Sys2Proof.Machine

theorem exec_step_of_lt {s : State} (h : s.stepcnt < s.cfg.frameBudget) :
    exec .step s = .next (issue .step
      (fun u => (u.setStepcnt (s.stepcnt + 1)).goto (phaseAfterStep s.cfg (s.stepcnt + 1))) s) := by
  rw [exec, execStep, State.stepDue, decide_eq_true h, if_pos rfl]

/-- Settles O21: below the budget the command is issued, and `issue_done` and `issue_fault_eq` follow it to its two ends. -/
theorem stepIssuesAndCountsOneCpuStep : Obligations.StepIssuesAndCountsOneCpuStep := by
  unfold Obligations.StepIssuesAndCountsOneCpuStep
  refine ⟨fun s hruns hphase => ?_, rfl, rfl, rfl, fun s hlt hc => ⟨fun hf => ?_, fun hf => ?_⟩⟩
  · rw [hruns.step_eq, hphase, Phase.instr]
  · rw [exec_step_of_lt hlt, issue_done hc hf]
    rfl
  · rw [exec_step_of_lt hlt, issue_fault_eq hc hf, CoreCmd.cause]

/-- Settles O22: as for STEP, with no counter and no budget. -/
theorem tickIssuesOneTimerDecrement : Obligations.TickIssuesOneTimerDecrement := by
  unfold Obligations.TickIssuesOneTimerDecrement
  refine ⟨fun s hruns hphase => ?_, rfl, rfl, rfl, fun s hc => ⟨fun hf => ?_, fun hf => ?_⟩⟩
  · rw [hruns.step_eq, hphase, Phase.instr]
  · rw [exec, execTick, issue_done hc hf]
    rfl
  · rw [exec, execTick, issue_fault_eq hc hf, CoreCmd.cause]

end Sys2Proof.Machine
end

section
/-! PROOFS. O30 (R163) and O33 (R167): the pixels of a rectangle. The surface's columns keep the rows of a rectangle
apart, and the square of a cell holds exactly the pixels whose coordinates, divided by `SCALE`, are the cell's. -/

namespace Sys2Proof

open Machine

/-! ### A rectangle of the surface (R50, R52) -/

/-- One row down is `W*SCALE` addresses up. -/
theorem Config.pixelAddr_add_rows (cfg : Config) (x y r : Nat) :
    cfg.pixelAddr x y + r * cfg.surfW = cfg.pixelAddr x (y + r) := by
  simp only [Config.pixelAddr, Nat.add_mul]
  omega

/-- A run of addresses that stays in its row holds the pixels of that row alone. -/
theorem Config.pixelAddr_mem_run_iff {cfg : Config} {x side px : Nat} (hx : x + side ≤ cfg.surfW) (hpx : px < cfg.surfW)
    (row py : Nat) :
    (cfg.pixelAddr x row ≤ cfg.pixelAddr px py ∧ cfg.pixelAddr px py < cfg.pixelAddr x row + side) ↔
      row = py ∧ x ≤ px ∧ px < x + side := by
  unfold Config.pixelAddr
  rcases Nat.lt_trichotomy row py with hlt | rfl | hgt
  · have hbelow : (row + 1) * cfg.surfW ≤ py * cfg.surfW := Nat.mul_le_mul_right _ hlt
    rw [Nat.succ_mul] at hbelow
    omega
  · omega
  · have habove : (py + 1) * cfg.surfW ≤ row * cfg.surfW := Nat.mul_le_mul_right _ hgt
    rw [Nat.succ_mul] at habove
    omega

/-- A pixel lies in one of the runs of a rectangle exactly when its coordinates lie in the rectangle. -/
theorem Config.pixelAddr_mem_rect_iff {cfg : Config} {x side px : Nat} (hx : x + side ≤ cfg.surfW) (hpx : px < cfg.surfW)
    (y py rows : Nat) :
    (∃ r, r < rows ∧ cfg.pixelAddr x y + r * cfg.surfW ≤ cfg.pixelAddr px py ∧
      cfg.pixelAddr px py < cfg.pixelAddr x y + r * cfg.surfW + side) ↔
      x ≤ px ∧ px < x + side ∧ y ≤ py ∧ py < y + rows := by
  simp only [cfg.pixelAddr_add_rows, cfg.pixelAddr_mem_run_iff hx hpx]
  constructor
  · rintro ⟨r, hr, rfl, hcol⟩
    omega
  · rintro ⟨hlo, hhi, htop, hbottom⟩
    exact ⟨py - y, by omega, by omega, hlo, hhi⟩

/-- A pixel after `fill`: the colour inside the square, the old pixel outside (R163). -/
theorem Machine.read_drawOn_fill {cfg : Config} {m : Memory} (hm : m.wf = true) {x side px : Nat}
    (hx : x + side ≤ cfg.surfW) (hpx : px < cfg.surfW) (y py : Nat) (c : Colour) :
    (drawOn cfg (.fill x y side c) m).read (cfg.pixelAddr px py) =
      if x ≤ px ∧ px < x + side ∧ y ≤ py ∧ py < y + side then c else m.read (cfg.pixelAddr px py) := by
  rw [drawOn, Memory.read_writeRect hm]
  exact if_congr (cfg.pixelAddr_mem_rect_iff hx hpx y py side) rfl rfl

/-- Settles O30: `read_drawOn_fill` with the square's last column and row named, and `Memory.read_cleared`. -/
theorem fillPaintsExactlyItsSquare : Obligations.FillPaintsExactlyItsSquare := by
  unfold Obligations.FillPaintsExactlyItsSquare
  refine ⟨fun cfg m x y side c hm hx _ px py hpx => ?_, fun cfg m c a => Memory.read_cleared c a⟩
  rw [read_drawOn_fill hm hx hpx]
  exact if_congr (by omega) rfl rfl

/-! ### The square of a cell (R89, R167) -/

/-- A coordinate lies in the `SCALE` columns or rows from corner `k * SCALE` exactly when `k` is its quotient. -/
theorem mem_scaled_iff {scale : Nat} (hs : 0 < scale) (k x : Nat) :
    (k * scale ≤ x ∧ x < k * scale + scale) ↔ k = x / scale := by
  rw [eq_comm, Nat.div_eq_iff hs]
  omega

theorem Config.div_scale_lt_width {cfg : Config} {x : Nat} (hx : x < cfg.surfW) : x / cfg.scale < cfg.width :=
  Nat.div_lt_of_lt_mul (by rwa [Nat.mul_comm])

theorem Config.div_scale_lt_height {cfg : Config} {y : Nat} (hy : y < cfg.surfH) : y / cfg.scale < cfg.height :=
  Nat.div_lt_of_lt_mul (by rwa [Nat.mul_comm])

/-- The cell of a pixel is the one with the pixel's divided coordinates. -/
theorem Config.eq_cellOfPixel_iff {cfg : Config} {x : Nat} (hx : x < cfg.surfW) (y i : Nat) :
    i = cfg.cellOfPixel x y ↔ cfg.cellX i = x / cfg.scale ∧ cfg.cellY i = y / cfg.scale := by
  constructor
  · rintro rfl
    exact ⟨Config.cellX_mul_add (Config.div_scale_lt_width hx) _, Config.cellY_mul_add (Config.div_scale_lt_width hx) _⟩
  · rintro ⟨hcol, hrow⟩
    rw [Config.cellOfPixel, ← hcol, ← hrow]
    exact cfg.cell_eq i

/-- A pixel lies in the square of cell `i` exactly when `i` is the cell of the pixel (R168). -/
theorem Config.mem_square_iff {cfg : Config} (hs : 0 < cfg.scale) {x : Nat} (hx : x < cfg.surfW) (y i : Nat) :
    (cfg.cornerX i ≤ x ∧ x < cfg.cornerX i + cfg.scale ∧ cfg.cornerY i ≤ y ∧ y < cfg.cornerY i + cfg.scale) ↔
      i = cfg.cellOfPixel x y := by
  rw [Config.eq_cellOfPixel_iff hx, ← mem_scaled_iff hs, ← mem_scaled_iff hs, and_assoc]
  rfl

/-- Every pixel of the surface has a cell. -/
theorem Config.cellOfPixel_lt {cfg : Config} {x y : Nat} (hx : x < cfg.surfW) (hy : y < cfg.surfH) :
    cfg.cellOfPixel x y < cfg.cells := by
  have hcol : x / cfg.scale < cfg.width := Config.div_scale_lt_width hx
  have hrows : (y / cfg.scale + 1) * cfg.width ≤ cfg.height * cfg.width :=
    Nat.mul_le_mul_right _ (Config.div_scale_lt_height hy)
  rw [Nat.succ_mul, Nat.mul_comm cfg.height] at hrows
  unfold Config.cellOfPixel Config.cells
  omega

/-- The `fill` of a cell stays on the surface (R167). -/
theorem Config.drawFits_cellFill {cfg : Config} (hw : 1 ≤ cfg.width) {i : Nat} (hi : i < cfg.cells) :
    drawFits cfg (cellFill cfg i) = true := by
  simp [cellFill, drawFits, Config.cornerX_add_le hw, Config.cornerY_add_le hi]

/-- Settles O33: the bounds on a corner are those on its cell's coordinates, scaled; `mem_square_iff` says that the squares
are disjoint and `cellOfPixel_lt` that they leave no pixel out. -/
theorem rectanglesTileTheSurface : Obligations.RectanglesTileTheSurface := by
  unfold Obligations.RectanglesTileTheSurface
  intro cfg hwf
  obtain ⟨hw, -, hs, -⟩ := cfg.wf_iff.mp hwf
  refine ⟨fun i hi => ?_, fun x y hx hy i _ => ⟨Config.mem_square_iff hs hx y i, Config.cellOfPixel_lt hx hy⟩⟩
  have hcol : cfg.cellX i ≤ cfg.width - 1 := Nat.le_sub_one_of_lt (Config.cellX_lt hw i)
  have hrow : cfg.cellY i ≤ cfg.height - 1 := Nat.le_sub_one_of_lt (Config.cellY_lt hi)
  exact ⟨hcol, hrow, cfg.cell_eq i, Nat.mul_le_mul_right _ hcol, Nat.mul_le_mul_right _ hrow,
    Nat.dvd_mul_left _ _, Nat.dvd_mul_left _ _, Config.drawFits_cellFill hw hi⟩

end Sys2Proof
end

section
/-! PROOFS. O34 (R168): the render invariant. It speaks of three phases only; RCLEAR enters the first of them with an empty
picture, RSCAN adds one cell's square, PRESENT hands the picture over. -/

namespace Sys2Proof.Machine

/-- The phases in which the surface or the display is known to hold cells of the PixelBuffer (R168). -/
def Phase.holdsPicture : Phase → Bool
  | .rscan | .present | .sync => true
  | .off | .boot | .sample | .press | .release | .step | .tick | .rclear | .halt => false

/-- In the other phases the invariant asks nothing. -/
theorem State.renderInv_of_phase {s : State} (h : s.phase.holdsPicture = false) : s.RenderInv := by
  intro x y b _ _ _
  refine ⟨fun hp => ?_, fun hp => ?_, fun hp => ?_⟩
  all_goals rw [hp] at h; cases h

theorem State.renderInv_resetOf (cfg : Config) : (State.resetOf cfg).RenderInv := State.renderInv_of_phase rfl

theorem renderInv_hardReset (s : State) : (hardReset s).RenderInv := State.renderInv_of_phase rfl

theorem renderInv_raise (c : Cause) (s : State) : (raise c s).RenderInv :=
  State.renderInv_of_phase (by cases c <;> rfl)

/-- The host's signals are no part of the picture. -/
theorem State.RenderInv.advance {s : State} (h : s.RenderInv) : s.advance.RenderInv := h

/-- A command sent outside these phases: only its success is to be checked. -/
theorem Issued.renderInv {c : CoreCmd} {k : State → State} {s t : State} (h : Issued c k s t)
    (hp : s.phase.holdsPicture = false) (hk : (k (s.sent c)).RenderInv) : t.RenderInv := by
  obtain ⟨-, -, rfl⟩ | ⟨-, -, rfl⟩ | ⟨-, rfl⟩ := h
  · exact hk
  · exact renderInv_raise _ _
  · exact State.renderInv_of_phase hp

/-! ### RCLEAR, RSCAN and PRESENT -/

@[simp] theorem State.goto_pixel (s : State) (p : Phase) (x y : Nat) : (s.goto p).pixel x y = s.pixel x y := rfl
@[simp] theorem State.setIdx_pixel (s : State) (n x y : Nat) : (s.setIdx n).pixel x y = s.pixel x y := rfl

/-- A cleared surface is the picture of no cell. -/
theorem renderInv_cleared (s : State) : (((emit (.clear .bg) s).setIdx 0).goto .rscan).RenderInv := by
  intro x y b _ _ _
  refine ⟨fun _ => ?_, fun hp => ?_, fun hp => ?_⟩
  · simp [State.pixel, drawOn]
  · cases hp
  · cases hp

/-- A pixel after the square of cell `i` is painted: the cell's colour on it, the old one elsewhere (R162). -/
theorem pixel_paintCell {s : State} (hwf : s.cfg.wf = true) (hsurf : s.surf.wf = true) {x : Nat} (hx : x < s.cfg.surfW)
    (i y : Nat) (b : Bool) :
    (paintCell i b s).pixel x y = if i = s.cfg.cellOfPixel x y ∧ b = true then .fg else s.pixel x y := by
  obtain ⟨hw, -, hs, -⟩ := s.cfg.wf_iff.mp hwf
  cases b
  · simp [paintCell]
  · have hfill := read_drawOn_fill hsurf (Config.cornerX_add_le hw i) hx (s.cfg.cornerY i) y .fg
    simpa [paintCell, State.pixel, cellFill, Config.mem_square_iff hs hx] using hfill

/-- The picture of the cells below `IDX` and one more cell is that of the cells below `IDX + 1`. -/
theorem pixel_paintCell_idx {s : State} (hwf : s.cfg.wf = true) (hsurf : s.surf.wf = true) (hs : s.RenderInv)
    (hp : s.phase = .rscan) {b : Bool} (hb : s.core.pixel s.idx = some b) {x y : Nat} (hx : x < s.cfg.surfW)
    (hy : y < s.cfg.surfH) {b' : Bool} (hb' : s.core.pixel (s.cfg.cellOfPixel x y) = some b') :
    (paintCell s.idx b s).pixel x y = if s.cfg.cellOfPixel x y < s.idx + 1 then Colour.ofBit b' else .bg := by
  obtain ⟨hscan, -⟩ := hs x y b' hx hy hb'
  rw [pixel_paintCell hwf hsurf hx, hscan hp]
  by_cases hcell : s.idx = s.cfg.cellOfPixel x y
  · have hbit : b = b' := by
      rw [← hcell, hb] at hb'
      exact Option.some.inj hb'
    cases b <;> simp [← hcell, ← hbit, Colour.ofBit]
  · have hbelow : s.cfg.cellOfPixel x y < s.idx + 1 ↔ s.cfg.cellOfPixel x y < s.idx := by omega
    simp [hcell, hbelow]

theorem exec_rscan_renderInv {s t : State} (hwf : s.cfg.wf = true) (hsurf : s.surf.wf = true) (hs : s.RenderInv)
    (hp : s.phase = .rscan) (h : exec .rscan s = .next t) : t.RenderInv := by
  obtain ⟨-, b, hb, rfl⟩ := exec_rscan_next h
  obtain ⟨hcfg, -, -, -, -, -, -, -, hcore, -⟩ := paintCell_frame s.idx b s
  intro x y b' hx hy hb'
  simp only [State.goto_cfg, State.goto_core, State.setIdx_cfg, State.setIdx_core, hcfg, hcore] at hx hy hb'
  have hpixel := pixel_paintCell_idx hwf hsurf hs hp hb hx hy hb'
  have hcell : s.cfg.cellOfPixel x y < s.cfg.cells := Config.cellOfPixel_lt hx hy
  by_cases hlast : s.idx + 1 = s.cfg.cells
  · rw [hlast, if_pos hcell] at hpixel
    simpa [phaseAfterScan, hlast] using hpixel
  · simpa [phaseAfterScan, hlast, hcfg] using hpixel

/-- The display takes the finished picture. -/
theorem renderInv_presented {s : State} (hs : s.RenderInv) (hp : s.phase = .present) :
    ((emit .present s).goto .sync).RenderInv := by
  intro x y b hx hy hb
  obtain ⟨-, hdone, -⟩ := hs x y b hx hy hb
  refine ⟨fun hq => ?_, fun hq => ?_, fun _ => hdone hp⟩
  · cases hq
  · cases hq

/-! ### Every operation of `PHASE` keeps the invariant -/

theorem exec_phase_renderInv {s t : State} (hwf : s.cfg.wf = true) (hsurf : s.surf.wf = true) (hs : s.RenderInv)
    (h : exec s.phase.instr s = .next t) : t.RenderInv := by
  cases hp : s.phase <;> rw [hp] at h
  case off | halt => injection h with h; exact h ▸ hs
  case boot =>
    obtain ⟨-, rfl⟩ | ⟨r, -, rfl⟩ | ⟨rom, -, -, -, hi⟩ := exec_boot_next h
    · exact hs
    · exact renderInv_raise _ _
    · exact hi.renderInv (by rw [State.log_phase, hp]; rfl) (State.renderInv_of_phase rfl)
  case sample => injection h with h; subst h; exact State.renderInv_of_phase rfl
  case press =>
    obtain ⟨-, rfl⟩ | ⟨k, -, hi⟩ := exec_press_next h
    · exact State.renderInv_of_phase rfl
    · exact hi.renderInv (by rw [hp]; rfl) (State.renderInv_of_phase rfl)
  case release =>
    obtain ⟨-, rfl⟩ | ⟨k, -, hi⟩ := exec_release_next h
    · exact State.renderInv_of_phase rfl
    · exact hi.renderInv (by rw [hp]; rfl) (State.renderInv_of_phase rfl)
  case step =>
    have hafter (n : Nat) : (phaseAfterStep s.cfg n).holdsPicture = false := by
      unfold phaseAfterStep
      split <;> rfl
    exact (exec_step_next h).2.renderInv (by rw [hp]; rfl) (State.renderInv_of_phase (hafter _))
  case tick => exact (exec_tick_next h).renderInv (by rw [hp]; rfl) (State.renderInv_of_phase rfl)
  case rclear => exact (exec_rclear_next h).renderInv (by rw [hp]; rfl) (renderInv_cleared _)
  case rscan => exact exec_rscan_renderInv hwf hsurf hs hp h
  case present => injection h with h; subst h; exact renderInv_presented hs hp
  case sync =>
    obtain ⟨-, rfl⟩ | ⟨-, rfl⟩ := exec_sync_next h
    · exact State.renderInv_of_phase rfl
    · exact hs

/-- Settles O34: a reset leaves no picture to speak of, a command in flight changes none, and the operation of `PHASE` keeps
it. -/
theorem displayGetsTheMagnifiedPixelBuffer : Obligations.DisplayGetsTheMagnifiedPixelBuffer := by
  unfold Obligations.DisplayGetsTheMagnifiedPixelBuffer
  refine ⟨State.renderInv_resetOf, fun s t hinv hs h => ?_⟩
  obtain ⟨hready, -, -, -, hsurf, -⟩ := hinv
  obtain ⟨-, rfl⟩ | ⟨-, -, rfl⟩ | ⟨-, -, u, hu, rfl⟩ := step_ready_cases hready h
  · exact (renderInv_hardReset s).advance
  · exact hs.advance
  · exact (exec_phase_renderInv hready.1 hsurf hs hu).advance

end Sys2Proof.Machine
end

section
/-! PROOFS. O28 (R161), O29 (R162) and O31 (R164): what the three operations of the rasterizer write. -/

namespace Sys2Proof.Machine

/-! ### RCLEAR and RSCAN -/

/-- `read_display()` leaves only its event: the core is as it was (R195). -/
theorem State.sent_readDisplay (s : State) : s.sent .readDisplay = s.log (.core .readDisplay) := by
  rw [State.sent, State.reply, Core.apply_readDisplay]
  rfl

/-- Settles O28: RCLEAR is one issue of `read_display()`, which leaves the core as it is; the clear belongs to the rest of
the operation, which a fault leaves out. -/
theorem rclearOpensTheViewAndClears : Obligations.RclearOpensTheViewAndClears := by
  unfold Obligations.RclearOpensTheViewAndClears
  refine ⟨fun s hruns hphase => ?_, rfl, rfl, rfl, fun cfg => ?_, fun s hc => ?_⟩
  · rw [hruns.step_eq, hphase, Phase.instr]
  · simp [DrawCmd.word, drawWord, Colour.code]
  · refine ⟨fun hf => ⟨?_, fun a => Memory.read_cleared .bg a⟩, fun hf => ?_⟩
    · rw [exec, execRclear, issue_done hc hf, State.sent_readDisplay]
      simp [emit, displayAfter, State.log, State.setSurf, State.setShown, State.setIdx, State.goto]
    · rw [exec, execRclear, issue_fault_eq hc hf, State.reply, Core.apply_readDisplay, CoreCmd.cause]

theorem exec_rscan_of_pixel {s : State} (hi : s.idx < s.cfg.cells) {b : Bool} (hb : s.core.pixel s.idx = some b) :
    exec .rscan s =
      .next (((paintCell s.idx b s).setIdx (s.idx + 1)).goto (phaseAfterScan s.cfg (s.idx + 1))) := by
  rw [exec, execRscan, State.cellDue, decide_eq_true hi, if_pos rfl, hb]

/-- Settles O29: RSCAN reads one cell, and `paintCell` issues that cell's `fill` when it is set. -/
theorem rscanPaintsOneCell : Obligations.RscanPaintsOneCell := by
  unfold Obligations.RscanPaintsOneCell
  refine ⟨fun s hruns hphase => ?_, rfl, fun cfg x y side => rfl, fun s hi => ⟨fun hb => ?_, fun hb => ?_⟩⟩
  · rw [hruns.step_eq, hphase, Phase.instr]
  · rw [exec_rscan_of_pixel hi hb]
    rfl
  · rw [exec_rscan_of_pixel hi hb]
    rfl

/-! ### What the display has -/

/-- However a command ends, the display has what it had, when the rest of the operation leaves it. -/
theorem Issued.shown {c : CoreCmd} {k : State → State} {s t : State} (h : Issued c k s t)
    (hk : ∀ u, (k u).shown = u.shown) : t.shown = s.shown := by
  obtain ⟨-, -, rfl⟩ | ⟨-, -, rfl⟩ | ⟨-, rfl⟩ := h
  · exact hk _
  · rfl
  · rfl

/-- Only a `present()` changes what the display has. -/
theorem exec_shown {i : Instr} {s t : State} (hp : i ≠ .present) (hd : i ≠ .drawPresent) (h : exec i s = .next t) :
    t.shown = s.shown := by
  cases i with
  | present => exact absurd rfl hp
  | drawPresent => exact absurd rfl hd
  | off | halt | kmap | sample | drawClear => injection h with h; subst h; rfl
  | boot =>
    obtain ⟨-, rfl⟩ | ⟨r, -, rfl⟩ | ⟨rom, -, -, -, hi⟩ := exec_boot_next h
    · rfl
    · rfl
    · exact hi.shown fun _ => rfl
  | press =>
    obtain ⟨-, rfl⟩ | ⟨k, -, hi⟩ := exec_press_next h
    · rfl
    · exact hi.shown fun _ => rfl
  | release =>
    obtain ⟨-, rfl⟩ | ⟨k, -, hi⟩ := exec_release_next h
    · rfl
    · exact hi.shown fun _ => rfl
  | step => exact (exec_step_next h).2.shown fun _ => rfl
  | tick => exact (exec_tick_next h).shown fun _ => rfl
  | rclear => exact (exec_rclear_next h).shown fun _ => rfl
  | rscan =>
    obtain ⟨-, b, -, rfl⟩ := exec_rscan_next h
    cases b <;> rfl
  | sync => obtain ⟨-, rfl⟩ | ⟨-, rfl⟩ := exec_sync_next h <;> rfl
  | coreLoad bytes =>
    obtain ⟨-, -, rfl⟩ := issueLoad_next h
    exact (issued _ _ s).shown fun _ => rfl
  | coreStep | coreTickTimers | coreKeyEvent | coreReadDisplay =>
    injection h with h; subst h; exact (issued _ _ s).shown fun _ => rfl
  | drawFill x y side c =>
    obtain ⟨-, rfl⟩ := exec_drawFill_next h
    rfl

/-- Settles O31: PRESENT's writes are its definition, and `exec_shown` covers every other instruction. -/
theorem presentHandsOverTheSurface : Obligations.PresentHandsOverTheSurface := by
  unfold Obligations.PresentHandsOverTheSurface
  refine ⟨fun s hruns hphase => ?_, rfl, fun cfg => rfl, fun s => rfl, fun _ _ _ => exec_shown⟩
  rw [hruns.step_eq, hphase, Phase.instr]

end Sys2Proof.Machine
end

section
/-! PROOFS. O39 (R184): a trace holds at most one `load`, before every other core command. BOOT sends the one `load`
into a trace without core commands and leaves its phase, or stays inside that command; no other operation of `PHASE` sends
a `load`, and none goes back to BOOT. -/

namespace Sys2Proof.Machine

/-! ### Traces whose one `load` comes first -/

/-- A trace has one `load`, and it is the first of its core commands. -/
def LoadFirst (es : List Event) : Prop :=
  ∃ bytes rest, coreCmds es = .load bytes :: rest ∧ rest.all (fun c => !c.isLoad) = true

/-- Events without a `load` may follow. -/
theorem LoadFirst.append {es new : List Event} (h : LoadFirst es)
    (hnew : (coreCmds new).all (fun c => !c.isLoad) = true) : LoadFirst (es ++ new) := by
  obtain ⟨bytes, rest, hcmds, hrest⟩ := h
  refine ⟨bytes, rest ++ coreCmds new, by rw [coreCmds_append, hcmds, List.cons_append], ?_⟩
  rw [List.all_append, hrest, hnew, Bool.and_self]

/-- A `load` sent when no core command has been sent is the one `load`. -/
theorem loadFirst_of_coreCmds_eq_nil {es : List Event} (h : coreCmds es = []) (bytes : List Byte) :
    LoadFirst (es ++ [.core (.load bytes)]) :=
  ⟨bytes, [], by rw [coreCmds_append, h]; rfl, rfl⟩

theorem LoadFirst.paintCell {s : State} (h : LoadFirst s.trace) (i : Nat) (b : Bool) :
    LoadFirst (paintCell i b s).trace := by
  cases b
  · exact h
  · exact h.append rfl

/-! ### The invariant, phase by phase -/

theorem State.loadInv_iff_of_boot {s : State} (hp : s.phase = .boot) (hfly : s.inFlight = none) :
    s.LoadInv ↔ coreCmds s.trace = [] ∧ s.core.loaded = false := by
  simp [State.LoadInv, hp, hfly]

theorem State.loadInv_iff_of_off {s : State} (hp : s.phase = .off) :
    s.LoadInv ↔ coreCmds s.trace = [] ∧ s.inFlight = none := by
  simp [State.LoadInv, hp]

/-- In every other phase, and inside a command of BOOT. -/
theorem State.loadInv_iff_loadFirst {s : State} (hboot : s.phase ≠ .boot ∨ s.inFlight ≠ none) (hoff : s.phase ≠ .off) :
    s.LoadInv ↔ LoadFirst s.trace := by
  have hdone : ¬ (s.phase = .boot ∧ s.inFlight = none) := not_and_or.mpr hboot
  simp only [State.LoadInv, if_neg hdone, if_neg hoff, LoadFirst]

theorem State.loadInv_iff_of_running {s : State} (hp : s.phase.running = true) : s.LoadInv ↔ LoadFirst s.trace := by
  refine State.loadInv_iff_loadFirst (.inl fun hboot => ?_) fun hoff => ?_
  · rw [hboot] at hp; cases hp
  · rw [hoff] at hp; cases hp

theorem State.loadInv_resetOf (cfg : Config) : (State.resetOf cfg).LoadInv :=
  (State.loadInv_iff_of_boot rfl rfl).mpr ⟨rfl, rfl⟩

theorem loadInv_hardReset (s : State) : (hardReset s).LoadInv :=
  (State.loadInv_iff_of_boot rfl rfl).mpr ⟨rfl, Core.fresh_loaded _⟩

/-- The host's signals are no part of it. -/
theorem State.LoadInv.advance {s : State} (h : s.LoadInv) : s.advance.LoadInv := h

/-- A command that leaves the one `load` first keeps the invariant on its fault (HALT) and while it has not completed; only
its success is to be checked. -/
theorem Issued.loadInv {c : CoreCmd} {k : State → State} {s t : State} (h : Issued c k s t) (hoff : s.phase ≠ .off)
    (hc : LoadFirst (s.sent c).trace) (hrun : (k (s.sent c)).phase.running = true)
    (hk : LoadFirst (k (s.sent c)).trace) : t.LoadInv := by
  obtain ⟨-, -, rfl⟩ | ⟨-, -, rfl⟩ | ⟨-, rfl⟩ := h
  · exact (State.loadInv_iff_of_running hrun).mpr hk
  · have hfault : LoadFirst ((s.sent c).log (.fault c.cause)).trace := hc.append rfl
    exact (State.loadInv_iff_loadFirst (.inl (by simp)) (by simp)).mpr hfault
  · have hinside : ((s.sent c).setInFlight (some c)).inFlight ≠ none := nofun
    exact (State.loadInv_iff_loadFirst (.inr hinside) hoff).mpr hc

/-! ### Every operation of `PHASE` keeps the invariant -/

theorem exec_boot_loadInv {s t : State} (hfly : s.inFlight = none) (hp : s.phase = .boot) (hs : s.LoadInv)
    (h : exec .boot s = .next t) : t.LoadInv := by
  obtain ⟨hcmds, -⟩ := (State.loadInv_iff_of_boot hp hfly).mp hs
  have hlogged (e : Event) (he : coreCmds [e] = []) : coreCmds (s.log e).trace = [] := by
    rw [State.log_trace, coreCmds_append, hcmds, he, List.append_nil]
  obtain ⟨-, rfl⟩ | ⟨r, -, rfl⟩ | ⟨rom, -, -, -, hi⟩ := exec_boot_next h
  · exact hs
  · have hoff : (raise r.cause (s.log (.bootAbort r))).phase = .off := by cases r <;> rfl
    exact (State.loadInv_iff_of_off hoff).mpr ⟨hlogged _ rfl, hfly⟩
  · have hload : LoadFirst ((s.log (.bootGo rom)).sent (.load rom)).trace :=
      loadFirst_of_coreCmds_eq_nil (hlogged _ rfl) rom
    exact hi.loadInv (by simp [hp]) hload rfl hload

/-- A running phase sends no `load`, and goes to a running phase, or to HALT on a fault. -/
theorem exec_running_loadInv {s t : State} (hp : s.phase.running = true) (hs : s.LoadInv)
    (h : exec s.phase.instr s = .next t) : t.LoadInv := by
  have hfirst : LoadFirst s.trace := (State.loadInv_iff_of_running hp).mp hs
  have hsent (c : CoreCmd) (hc : c.isLoad = false) : LoadFirst (s.sent c).trace :=
    hfirst.append (by simp [coreCmds, hc])
  have hoff : s.phase ≠ .off := fun hoff => by rw [hoff] at hp; cases hp
  cases hphase : s.phase <;> rw [hphase] at h hp
  case off | boot | halt => cases hp
  case sample =>
    injection h with h; subst h
    exact (State.loadInv_iff_of_running rfl).mpr (hfirst.append rfl)
  case press =>
    obtain ⟨-, rfl⟩ | ⟨key, -, hi⟩ := exec_press_next h
    · exact (State.loadInv_iff_of_running rfl).mpr hfirst
    · exact hi.loadInv hoff (hsent _ rfl) rfl (hsent _ rfl)
  case release =>
    obtain ⟨-, rfl⟩ | ⟨key, -, hi⟩ := exec_release_next h
    · exact (State.loadInv_iff_of_running rfl).mpr hfirst
    · exact hi.loadInv hoff (hsent _ rfl) rfl (hsent _ rfl)
  case step =>
    have hafter (n : Nat) : (phaseAfterStep s.cfg n).running = true := by
      unfold phaseAfterStep
      split <;> rfl
    obtain ⟨-, hi⟩ := exec_step_next h
    exact hi.loadInv hoff (hsent _ rfl) (hafter _) (hsent _ rfl)
  case tick => exact (exec_tick_next h).loadInv hoff (hsent _ rfl) rfl (hsent _ rfl)
  case rclear =>
    have hcleared : LoadFirst (emit (.clear .bg) (s.sent .readDisplay)).trace := (hsent _ rfl).append rfl
    exact (exec_rclear_next h).loadInv hoff (hsent _ rfl) rfl hcleared
  case rscan =>
    have hafter (n : Nat) : (phaseAfterScan s.cfg n).running = true := by
      unfold phaseAfterScan
      split <;> rfl
    obtain ⟨-, b, -, rfl⟩ := exec_rscan_next h
    exact (State.loadInv_iff_of_running (hafter _)).mpr (hfirst.paintCell s.idx b)
  case present =>
    injection h with h; subst h
    exact (State.loadInv_iff_of_running rfl).mpr (hfirst.append rfl)
  case sync =>
    obtain ⟨-, rfl⟩ | ⟨-, rfl⟩ := exec_sync_next h
    · exact (State.loadInv_iff_of_running rfl).mpr (hfirst.append rfl)
    · exact hs

theorem exec_phase_loadInv {s t : State} (hfly : s.inFlight = none) (hs : s.LoadInv)
    (h : exec s.phase.instr s = .next t) : t.LoadInv := by
  cases hp : s.phase
  case off | halt => rw [hp] at h; injection h with h; exact h ▸ hs
  case boot => rw [hp] at h; exact exec_boot_loadInv hfly hp hs h
  all_goals exact exec_running_loadInv (by rw [hp]; rfl) hs h

/-- Settles O39: a reset empties the trace, a command in flight adds nothing to it, and the operation of `PHASE` keeps the
one `load` first. -/
theorem loadComesOnceAndFirst : Obligations.LoadComesOnceAndFirst := by
  unfold Obligations.LoadComesOnceAndFirst
  refine ⟨State.loadInv_resetOf, fun s t hready hs h => ?_⟩
  obtain ⟨-, rfl⟩ | ⟨-, -, rfl⟩ | ⟨-, hfly, u, hu, rfl⟩ := step_ready_cases hready h
  · exact (loadInv_hardReset s).advance
  · exact hs.advance
  · exact (exec_phase_loadInv hfly hs hu).advance

end Sys2Proof.Machine
end

section
/-! PROOFS. O43 (R198): what the reference fake core, which has no `faultOn` and no `hangsOn`, answers to a command. -/

namespace Sys2Proof.Machine

/-- `KEYS[k] <- p` (R194, R198): the entry of the key becomes `p`, every other one stays. -/
theorem getLsbD_setKey (keys : BitVec 16) (k : Key) (p : Bool) {j : Nat} (hj : j < 16) :
    (setKey keys k p).getLsbD j = if j = k.toNat then p else keys.getLsbD j := by
  have hbit : (1#16 <<< k.toNat).getLsbD j = decide (j = k.toNat) := by
    rw [← BitVec.twoPow_eq, BitVec.getLsbD_twoPow]
    simp only [k.isLt, decide_true, Bool.true_and, eq_comm]
  cases p with
  | false =>
    have hclear : (setKey keys k false).getLsbD j = (keys.getLsbD j && !decide (j = k.toNat)) := by
      rw [setKey, if_neg Bool.false_ne_true, BitVec.getLsbD_and, BitVec.getLsbD_not, hbit, decide_eq_true hj,
        Bool.true_and]
    rw [hclear]
    by_cases h : j = k.toNat <;> simp [h]
  | true =>
    have hset : (setKey keys k true).getLsbD j = (keys.getLsbD j || decide (j = k.toNat)) := by
      rw [setKey, if_pos rfl, BitVec.getLsbD_or, hbit]
    rw [hset]
    by_cases h : j = k.toNat <;> simp [h]

/-- Without `firstStepSets` a `step()` leaves the display as it is. -/
theorem FakeCore.stepDisplay_of_none {f : FakeCore} (h : f.firstStepSets = none) : f.stepDisplay = f.display := by
  rw [stepDisplay, h]

/-- Without `faultOn` the fake core faults on the `step()` whose ordinal is `faultAt`, and on nothing else. -/
theorem FakeCore.faults_of_none {f : FakeCore} (h : f.faultOn = none) (c : CoreCmd) :
    f.faults c = match c with
      | .step => decide (f.faultAt = some (f.steps + 1))
      | .load _ | .tickTimers | .keyEvent _ _ | .readDisplay => false := by
  cases c <;> simp [faults, h]

/-- Every command but `load` is answered with the fake core's own fault bit and, without `hangsOn`, completes. -/
theorem Core.apply_fake_of_not_load {cfg : Config} {f : FakeCore} (hh : f.hangsOn = none) {c : CoreCmd}
    (hl : c.isLoad = false) : Core.apply cfg c (.fake f) = ⟨.fake (f.next c), f.faults c, true⟩ := by
  have hfault : faultBit cfg c (f.faults c) = f.faults c := by
    cases c
    case load => simp [CoreCmd.isLoad] at hl
    all_goals rfl
  have hcompletes : f.completes c = true := Core.apply_fake_completes (cfg := cfg) hh c
  rw [Core.apply, hfault, hcompletes]

/-- Settles O43: `Core.apply_fake_of_not_load` gives each answer, the lemmas before it the display of `step()`, the
fault bits and the key table; `load`, whose fault bit R198 leaves to R186, is given by its next state alone. -/
theorem fakeCoreTransitions : Obligations.FakeCoreTransitions := by
  unfold Obligations.FakeCoreTransitions
  intro cfg f hset hfault hhang
  have hreply {c : CoreCmd} (hl : c.isLoad = false) := Core.apply_fake_of_not_load (cfg := cfg) hhang hl
  refine ⟨⟨rfl, rfl, rfl, rfl, rfl⟩, fun _ => rfl, ?step, ?tick,
    fun k p => ⟨setKey f.keys k p, ?event, fun _ => getLsbD_setKey f.keys k p⟩, ?read⟩
  case step => rw [hreply rfl, FakeCore.faults_of_none hfault, FakeCore.next, FakeCore.stepDisplay_of_none hset]
  case tick | event | read => rw [hreply rfl, FakeCore.faults_of_none hfault, FakeCore.next]

end Sys2Proof.Machine
end

section
/-! PROOFS. O49 (R217) and O50 (R218): `raise` enters OFF or HALT by its cause, and neither performs anything. A step
without `rst` reads no inlet there, so what it does is the same in both. -/

namespace Sys2Proof.Machine

/-- The operation of a terminal phase is none (R226). -/
theorem exec_instr_of_isTerminal {p : Phase} (h : p.isTerminal = true) (s : State) : exec p.instr s = .next s := by
  cases p
  case off | halt => rfl
  all_goals cases h

/-- A terminal phase holds for ever, inside a core command that has not completed or outside one, and whatever stands at
the command inlet (R217, R218, R226). -/
theorem step_of_isTerminal {s : State} (hwf : s.cfg.wf = true) (hfits : s.core.fits s.cfg = true)
    (hrst : s.host.now.rst = false) (hterm : s.phase.isTerminal = true) : step s = .next s.advance := by
  cases hfly : s.inFlight with
  | some c =>
    have hwait : fetch s = .wait := by simp [fetch, hwf, hfits, hrst, hfly]
    rw [step, hwait]
  | none =>
    have hrun : fetch s = .run s.phase.instr s := by
      simp [fetch, fetched, hwf, hfits, hrst, hfly, State.inlet_terminal hterm]
    rw [step, hrun]
    simp only [exec_instr_of_isTerminal hterm, afterExec]

/-- Settles O49: a boot abort's terminal phase is OFF, and OFF is held by `step_of_isTerminal`. -/
theorem offIsEnteredAndKept : Obligations.OffIsEnteredAndKept := by
  unfold Obligations.OffIsEnteredAndKept
  refine ⟨fun s c hc => ?_, exec_instr_of_isTerminal (p := .off) rfl, fun s hwf hfits hrst hoff => ?_⟩
  · obtain rfl | rfl := hc <;> rfl
  · exact step_of_isTerminal hwf hfits hrst (by rw [hoff]; rfl)

/-- The causes of the core's faults are the codes from 3 on (R210, R218). -/
theorem CoreCmd.three_le_cause_code (c : CoreCmd) : 3 ≤ c.cause.code.toNat := by
  cases c <;> simp [CoreCmd.cause, Cause.code]

/-- Settles O50: `issue_fault_eq` is the entry into HALT for whatever was to follow the command, and HALT is held by
`step_of_isTerminal`. -/
theorem haltIsEnteredAndKept : Obligations.HaltIsEnteredAndKept := by
  unfold Obligations.HaltIsEnteredAndKept
  refine ⟨fun s c k hc hf => issue_fault_eq hc hf, CoreCmd.three_le_cause_code,
    exec_instr_of_isTerminal (p := .halt) rfl, fun s hwf hfits hrst hhalt => ?_⟩
  exact step_of_isTerminal hwf hfits hrst (by rw [hhalt]; rfl)

end Sys2Proof.Machine
end

section
/-! PROOFS. O1, O2, O3 and O8 (30_encoding.md): for each format, what its decoder reads from the words the encoder writes, and
that it accepts no other word. A word is taken apart field by field, lowest first. -/

namespace Sys2Proof

open Machine

/-! ### A number from its low and its high part -/

theorem low_high_mod {a m : Nat} (ha : a < m) (b : Nat) : (a + m * b) % m = a := by
  rw [Nat.add_mul_mod_self_left, Nat.mod_eq_of_lt ha]

theorem low_high_div {a m : Nat} (ha : a < m) (b : Nat) : (a + m * b) / m = b := by
  rw [Nat.add_mul_div_left _ _ (Nat.zero_lt_of_lt ha), Nat.div_eq_of_lt ha, Nat.zero_add]

/-! ### Format PH -/

theorem encode_phase_instr (cfg : Config) (p : Phase) : encode cfg p.instr = some (.ph, p.code.toNat) := by
  cases p <;> rfl

theorem phase_instr_wf (cfg : Config) (p : Phase) : p.instr.wf cfg = true := by cases p <;> rfl

/-- Only a phase's own code names it. -/
theorem Machine.Phase.eq_code_of_ofCode {w : Nat} {p : Phase} (h : Phase.ofCode w = some p) : w = p.code.toNat := by
  unfold Phase.ofCode at h
  split at h
  case h_13 => cases h
  all_goals injection h with h; subst h; rfl

theorem decodePH_ok {w : Nat} {i : Instr} (h : decodePH w = .ok i) : ∃ p : Phase, w = p.code.toNat ∧ i = p.instr := by
  unfold decodePH at h
  split at h
  · cases h
  · split at h
    · rename_i p hp
      injection h with h
      exact ⟨p, Phase.eq_code_of_ofCode hp, h.symm⟩
    · cases h

/-! ### Format CC: data bytes -/

theorem takeBytes_packBytes (bytes : List Byte) : takeBytes bytes.length (packBytes bytes) = bytes := by
  induction bytes with
  | nil => rfl
  | cons b rest ih =>
    have hlow : BitVec.ofNat 8 (b.toNat + 256 * packBytes rest) = b :=
      BitVec.eq_of_toNat_eq (low_high_mod b.isLt _)
    simp only [List.length_cons, packBytes, takeBytes, hlow, low_high_div b.isLt, ih]

@[simp] theorem length_takeBytes (n w : Nat) : (takeBytes n w).length = n := by
  induction n generalizing w with
  | zero => rfl
  | succ n ih => rw [takeBytes, List.length_cons, ih]

/-- A number of `8 * n` bits is that of its `n` bytes. -/
theorem packBytes_takeBytes {n w : Nat} (h : w < 2 ^ (8 * n)) : packBytes (takeBytes n w) = w := by
  induction n generalizing w with
  | zero =>
    have hzero : w = 0 := Nat.lt_one_iff.mp h
    rw [hzero]
    rfl
  | succ n ih =>
    rw [Nat.mul_succ, Nat.pow_add] at h
    have hhigh : packBytes (takeBytes n (w / 256)) = w / 256 := ih (Nat.div_lt_of_lt_mul (by rwa [Nat.mul_comm]))
    rw [takeBytes, packBytes, hhigh, BitVec.toNat_ofNat]
    exact Nat.mod_add_div w 256

/-! ### Format CC: transactions -/

/-- A load's length and bytes are read back. -/
theorem decodeLoad_bytes {cfg : Config} {bytes : List Byte} (h : bytes.length < 2 ^ cfg.lenw) :
    decodeLoad cfg (bytes.length + 2 ^ cfg.lenw * packBytes bytes) = .ok (.coreLoad bytes) := by
  have hfits : ¬ 2 ^ (8 * bytes.length) ≤ packBytes bytes := Nat.not_le.mpr (Laws.EncodeFits.packBytes_lt bytes)
  simp only [decodeLoad, low_high_mod h, low_high_div h, if_neg hfits, takeBytes_packBytes]

theorem decodeLoad_ok {cfg : Config} {rest : Nat} {i : Instr} (h : decodeLoad cfg rest = .ok i) :
    ∃ bytes : List Byte, i = .coreLoad bytes ∧ bytes.length < 2 ^ cfg.lenw ∧
      rest = bytes.length + 2 ^ cfg.lenw * packBytes bytes := by
  simp only [decodeLoad] at h
  split at h
  · cases h
  · rename_i hfits
    injection h with h
    refine ⟨_, h.symm, ?_, ?_⟩
    · rw [length_takeBytes]
      exact Nat.mod_lt _ (Nat.two_pow_pos _)
    · rw [length_takeBytes, packBytes_takeBytes (Nat.not_le.mp hfits)]
      exact (Nat.mod_add_div _ _).symm

/-- Op 1 is `load`, and the bits above its CC word are its transaction's. -/
theorem decodeCC_load (cfg : Config) (rest : Nat) : decodeCC cfg (0x20 + 256 * rest) = decodeLoad cfg rest := by
  have hop : (0x20 + 256 * rest) % 256 / 32 = 1 := by omega
  have hpayload : (0x20 + 256 * rest) % 32 = 0 := by omega
  have hrest : (0x20 + 256 * rest) / 256 = rest := by omega
  simp only [decodeCC, hop, hpayload, hrest, if_true]

/-- Every other CC word stands alone: its op in bits 7:5, its payload in bits 4:0. -/
theorem decodeCC_op (cfg : Config) {op payload : Nat} (hop : op < 8) (hne : op ≠ 1) (hpayload : payload < 32) :
    decodeCC cfg (32 * op + payload) = decodeCoreOp op payload := by
  have hop' : (32 * op + payload) % 256 / 32 = op := by omega
  have hpayload' : (32 * op + payload) % 32 = payload := by omega
  have hnarrow : ¬ 256 ≤ 32 * op + payload := by omega
  simp only [decodeCC, hop', hpayload', if_neg hne, if_neg hnarrow]

/-- Every transaction that is read is a load's or one word of another op. -/
theorem decodeCC_ok {cfg : Config} {w : Nat} {i : Instr} (h : decodeCC cfg w = .ok i) :
    (∃ rest, w = 0x20 + 256 * rest ∧ decodeLoad cfg rest = .ok i) ∨
    (∃ op payload, payload < 32 ∧ w = 32 * op + payload ∧ decodeCoreOp op payload = .ok i) := by
  simp only [decodeCC] at h
  split at h
  · split at h
    · exact .inl ⟨w / 256, by omega, h⟩
    · cases h
  · split at h
    · cases h
    · exact .inr ⟨w % 256 / 32, w % 32, Nat.mod_lt _ (by decide), by omega, h⟩

/-- The payload of a `key_event` is its KeyEvent: bit 4 `pressed`, bits 3:0 the key (R82). -/
theorem decodeCoreOp_keyEvent (pressed : Bool) (key : Key) :
    decodeCoreOp 4 (0x10 * pressed.toNat + key.toNat) = .ok (.coreKeyEvent pressed key) := by
  have hkey : key.toNat < 16 := key.isLt
  have hpressed : decide (16 ≤ 0x10 * pressed.toNat + key.toNat) = pressed := by
    cases pressed
    · simpa using hkey
    · simp
  have hlow : BitVec.ofNat 4 (0x10 * pressed.toNat + key.toNat) = key :=
    BitVec.eq_of_toNat_eq (by rw [BitVec.toNat_ofNat]; omega)
  rw [decodeCoreOp, hpressed, hlow]

/-- A payload of five bits is the KeyEvent read from it. -/
theorem keyEvent_payload {payload : Nat} (h : payload < 32) :
    0x10 * (decide (16 ≤ payload)).toNat + (BitVec.ofNat 4 payload).toNat = payload := by
  rw [BitVec.toNat_ofNat]
  by_cases hpressed : 16 ≤ payload
  · simp only [hpressed, decide_true, Bool.toNat_true]
    omega
  · simp only [hpressed, decide_false, Bool.toNat_false]
    omega

/-- What a lone CC word is read as has that word. -/
theorem encode_of_decodeCoreOp {cfg : Config} {op payload : Nat} (hpayload : payload < 32) {i : Instr}
    (h : decodeCoreOp op payload = .ok i) : encode cfg i = some (.cc, 32 * op + payload) ∧ i.wf cfg = true := by
  unfold decodeCoreOp at h
  split at h
  case h_3 =>
    injection h with h; subst h
    refine ⟨?_, rfl⟩
    rw [encode, CoreCmd.bits, toNat_word_keyEvent, keyEvent_payload hpayload]
    nofun
  case h_5 => cases h
  all_goals
    split at h
    · injection h with h; subst h
      rename_i hzero
      rw [hzero]
      exact ⟨rfl, rfl⟩
    · cases h

/-! ### Format DC -/

@[simp] theorem Colour.ofCode_code (c : Colour) : Colour.ofCode c.code = c := by cases c <;> rfl

theorem Colour.code_ofCode {n : Nat} (h : n < 2) : (Colour.ofCode n).code = n := by
  interval_cases n <;> rfl

/-- The fields of a DC word, lowest first (R87). -/
theorem drawWord_fields {cfg : Config} {x y side : Nat} (hx : x < 2 ^ cfg.xw) (hy : y < 2 ^ cfg.yw)
    (hs : side < 2 ^ cfg.sw) (op colour : Nat) :
    drawWord cfg op colour x y side % 2 ^ cfg.sw = side ∧
    drawWord cfg op colour x y side / 2 ^ cfg.sw % 2 ^ cfg.yw = y ∧
    drawWord cfg op colour x y side / 2 ^ (cfg.sw + cfg.yw) % 2 ^ cfg.xw = x ∧
    drawWord cfg op colour x y side / 2 ^ (cfg.sw + cfg.yw + cfg.xw) = 2 * op + colour := by
  simp only [drawWord, Nat.pow_add, ← Nat.div_div_eq_div_mul, low_high_div hs, low_high_div hy, low_high_div hx,
    low_high_mod hs, low_high_mod hy, low_high_mod hx, true_and]
  exact Nat.add_comm _ _

/-- A DC word whose fields fit is read field by field. -/
theorem decodeDC_drawWord {cfg : Config} {colour x y side : Nat} (hc : colour < 2) (hx : x < 2 ^ cfg.xw)
    (hy : y < 2 ^ cfg.yw) (hs : side < 2 ^ cfg.sw) (op : Nat) :
    decodeDC cfg (drawWord cfg op colour x y side) = decodeDrawOp op colour x y side := by
  simp only [decodeDC, drawWord, low_high_div hs, low_high_div hy, low_high_div hx, low_high_div hc, low_high_mod hs,
    low_high_mod hy, low_high_mod hx, low_high_mod hc]

/-- Every number is the DC word of the fields read from it. -/
theorem decodeDC_eq (cfg : Config) (w : Nat) :
    ∃ op colour x y side, colour < 2 ∧ x < 2 ^ cfg.xw ∧ y < 2 ^ cfg.yw ∧ side < 2 ^ cfg.sw ∧
      w = drawWord cfg op colour x y side ∧ decodeDC cfg w = decodeDrawOp op colour x y side := by
  refine ⟨_, _, _, _, _, Nat.mod_lt _ (by decide), Nat.mod_lt _ (Nat.two_pow_pos _), Nat.mod_lt _ (Nat.two_pow_pos _),
    Nat.mod_lt _ (Nat.two_pow_pos _), ?_, rfl⟩
  simp only [drawWord, Nat.mod_add_div]

/-- What a DC word's fields are read as has that word. -/
theorem encode_of_decodeDrawOp {cfg : Config} {op colour x y side : Nat} (hc : colour < 2) (hx : x < 2 ^ cfg.xw)
    (hy : y < 2 ^ cfg.yw) (hs : side < 2 ^ cfg.sw) {i : Instr} (h : decodeDrawOp op colour x y side = .ok i) :
    encode cfg i = some (.dc, drawWord cfg op colour x y side) ∧ i.wf cfg = true := by
  unfold decodeDrawOp at h
  split at h
  · split at h
    · rename_i hzero
      obtain ⟨rfl, rfl, rfl⟩ := hzero
      injection h with h; subst h
      exact ⟨by rw [encode, DrawCmd.word, Colour.code_ofCode hc], rfl⟩
    · cases h
  · injection h with h; subst h
    refine ⟨by rw [encode, DrawCmd.word, Colour.code_ofCode hc], ?_⟩
    simp only [Instr.wf, hx, hy, hs, decide_true, Bool.and_self]
  · split at h
    · rename_i hzero
      obtain ⟨rfl, rfl, rfl, rfl⟩ := hzero
      injection h with h; subst h
      exact ⟨rfl, rfl⟩
    · cases h
  · cases h
  · cases h

/-! ### The round trips -/

/-- Settles O1: each instruction's code is read by its format's decoder, whose lemma above reads its fields back. -/
theorem decodeOfEncodeIsTheInstruction : Obligations.DecodeOfEncodeIsTheInstruction := by
  unfold Obligations.DecodeOfEncodeIsTheInstruction
  intro cfg i f w hwf h
  cases i
  case kmap => cases h
  case off | boot | sample | press | release | step | tick | rclear | rscan | present | sync | halt =>
    cases h; exact decodePH_code _
  case coreLoad bytes => cases h; exact (decodeCC_load cfg _).trans (decodeLoad_bytes (of_decide_eq_true hwf))
  case coreStep => cases h; exact decodeCC_op cfg (op := 2) (payload := 0) (by decide) (by decide) (by decide)
  case coreTickTimers => cases h; exact decodeCC_op cfg (op := 3) (payload := 0) (by decide) (by decide) (by decide)
  case coreReadDisplay => cases h; exact decodeCC_op cfg (op := 5) (payload := 0) (by decide) (by decide) (by decide)
  case coreKeyEvent pressed key =>
    cases h
    have hpayload : 0x10 * pressed.toNat + key.toNat < 32 := by
      have hpressed : pressed.toNat ≤ 1 := pressed.toNat_le
      have hkey : key.toNat < 16 := key.isLt
      omega
    have hword := decodeCC_op cfg (op := 4) (by decide) (by decide) hpayload
    rw [decodeCoreOp_keyEvent, ← toNat_word_keyEvent] at hword
    exact hword
  case drawClear c =>
    cases h
    refine (decodeDC_drawWord (Laws.EncodeFits.Colour.code_lt c) (Nat.two_pow_pos _) (Nat.two_pow_pos _)
      (Nat.two_pow_pos _) 0).trans ?_
    simp [decodeDrawOp]
  case drawFill x y side c =>
    cases h
    simp only [Instr.wf, Bool.and_eq_true, decide_eq_true_eq] at hwf
    obtain ⟨⟨hx, hy⟩, hs⟩ := hwf
    refine (decodeDC_drawWord (Laws.EncodeFits.Colour.code_lt c) hx hy hs 1).trans ?_
    simp [decodeDrawOp]
  case drawPresent =>
    cases h
    exact decodeDC_drawWord (by decide) (Nat.two_pow_pos _) (Nat.two_pow_pos _) (Nat.two_pow_pos _) 2

/-- Settles O2: what each decoder accepts is put together again from the fields it was read from. -/
theorem encodeOfDecodeIsTheWord : Obligations.EncodeOfDecodeIsTheWord := by
  unfold Obligations.EncodeOfDecodeIsTheWord
  intro cfg f w i h
  cases f
  case ph =>
    obtain ⟨p, rfl, rfl⟩ := decodePH_ok h
    exact ⟨encode_phase_instr cfg p, phase_instr_wf cfg p⟩
  case cc =>
    obtain ⟨rest, rfl, hload⟩ | ⟨op, payload, hpayload, rfl, hop⟩ := decodeCC_ok h
    · obtain ⟨bytes, rfl, hlen, rfl⟩ := decodeLoad_ok hload
      exact ⟨rfl, decide_eq_true hlen⟩
    · exact encode_of_decodeCoreOp hpayload hop
  case dc =>
    obtain ⟨op, colour, x, y, side, hc, hx, hy, hs, rfl, hop⟩ := decodeDC_eq cfg w
    exact encode_of_decodeDrawOp hc hx hy hs (hop.symm.trans h)
  case fn => cases h

/-- Settles O3: the decoder evaluated on each word. -/
theorem writtenWordsDecodeRight : Obligations.WrittenWordsDecodeRight := by
  unfold Obligations.WrittenWordsDecodeRight
  decide

/-- Settles O8: `drawWord_fields` gives the fields of the three DC words, and the CC words are their definitions. -/
theorem commandWordsHaveTheirFields : Obligations.CommandWordsHaveTheirFields := by
  unfold Obligations.CommandWordsHaveTheirFields
  have hzero (n : Nat) : 0 < 2 ^ n := Nat.two_pow_pos n
  refine ⟨fun _ => ⟨rfl, rfl, rfl, rfl, rfl, rfl⟩, fun k p => ?_, fun _ => rfl,
    fun cfg x y side c hx hy hs => drawWord_fields hx hy hs 1 c.code,
    fun cfg c => drawWord_fields (hzero _) (hzero _) (hzero _) 0 c.code,
    fun cfg => drawWord_fields (hzero _) (hzero _) (hzero _) 2 0⟩
  rw [CoreCmd.words, toNat_word_keyEvent, Nat.add_assoc]
  nofun

end Sys2Proof
end

section
/-! PROOFS. O47, O59 and O60 (10_state.md section 3, 20_memory.md sections 4 and 7): what an instruction leaves alone. None
writes the configuration record, the host port or the command inlet, and four alone write the surface. -/

namespace Sys2Proof

/-- The instructions that write the surface (20_memory.md section 4). -/
def Instr.paints : Instr → Bool
  | .rclear | .rscan | .drawClear _ | .drawFill _ _ _ _ => true
  | .off | .boot | .sample | .press | .release | .step | .tick | .present | .sync | .halt => false
  | .coreLoad _ | .coreStep | .coreTickTimers | .coreKeyEvent _ _ | .coreReadDisplay | .drawPresent | .kmap _ => false

end Sys2Proof

namespace Sys2Proof.Machine

/-- From `s` to `t` the configuration record, the host port and the command inlet stand still, and unless `paints` so does
the surface. -/
structure Leaves (paints : Bool) (s t : State) : Prop where
  cfg : t.cfg = s.cfg
  host : t.host = s.host
  cmdIn : t.cmdIn = s.cmdIn
  surf : paints = false → t.surf = s.surf

theorem Leaves.trans {paints : Bool} {s t u : State} (h : Leaves paints s t) (h' : Leaves paints t u) :
    Leaves paints s u where
  cfg := h'.cfg.trans h.cfg
  host := h'.host.trans h.host
  cmdIn := h'.cmdIn.trans h.cmdIn
  surf hp := (h'.surf hp).trans (h.surf hp)

theorem leaves_sent (paints : Bool) (c : CoreCmd) (s : State) : Leaves paints s (s.sent c) :=
  ⟨rfl, rfl, rfl, fun _ => rfl⟩

theorem leaves_paintCell (i : Nat) (b : Bool) (s : State) : Leaves true s (paintCell i b s) := by
  obtain ⟨hcfg, -, -, -, -, -, -, -, -, hhost, -, -, hcmd, -⟩ := paintCell_frame i b s
  exact ⟨hcfg, hhost, hcmd, nofun⟩

/-- However a command ends, what it leaves is decided by the rest of its operation. -/
theorem Issued.leaves {paints : Bool} {c : CoreCmd} {k : State → State} {s t : State} (h : Issued c k s t)
    (hk : ∀ u, Leaves paints u (k u)) : Leaves paints s t := by
  obtain ⟨-, -, rfl⟩ | ⟨-, -, rfl⟩ | ⟨-, rfl⟩ := h
  · exact (leaves_sent paints c s).trans (hk _)
  · exact (leaves_sent paints c s).trans ⟨rfl, rfl, rfl, fun _ => rfl⟩
  · exact (leaves_sent paints c s).trans ⟨rfl, rfl, rfl, fun _ => rfl⟩

theorem exec_leaves {i : Instr} {s t : State} (h : exec i s = .next t) : Leaves i.paints s t := by
  have hgoto (p : Phase) (u : State) : Leaves false u (u.goto p) := ⟨rfl, rfl, rfl, fun _ => rfl⟩
  cases i with
  | off | halt | kmap | sample | present | drawPresent =>
    injection h with h; subst h; exact ⟨rfl, rfl, rfl, fun _ => rfl⟩
  | drawClear => injection h with h; subst h; exact ⟨rfl, rfl, rfl, nofun⟩
  | drawFill x y side c =>
    obtain ⟨-, rfl⟩ := exec_drawFill_next h
    exact ⟨rfl, rfl, rfl, nofun⟩
  | boot =>
    obtain ⟨-, rfl⟩ | ⟨r, -, rfl⟩ | ⟨rom, -, -, -, hi⟩ := exec_boot_next h
    · exact ⟨rfl, rfl, rfl, fun _ => rfl⟩
    · exact ⟨rfl, rfl, rfl, fun _ => rfl⟩
    · have hlog : Leaves false s (s.log (.bootGo rom)) := ⟨rfl, rfl, rfl, fun _ => rfl⟩
      exact hlog.trans (hi.leaves (hgoto .sample))
  | press =>
    obtain ⟨-, rfl⟩ | ⟨k, -, hi⟩ := exec_press_next h
    · exact hgoto _ _
    · exact hi.leaves (hgoto .release)
  | release =>
    obtain ⟨-, rfl⟩ | ⟨k, -, hi⟩ := exec_release_next h
    · exact ⟨rfl, rfl, rfl, fun _ => rfl⟩
    · exact hi.leaves fun _ => ⟨rfl, rfl, rfl, fun _ => rfl⟩
  | step => exact (exec_step_next h).2.leaves fun _ => ⟨rfl, rfl, rfl, fun _ => rfl⟩
  | tick => exact (exec_tick_next h).leaves (hgoto .rclear)
  | rclear => exact (exec_rclear_next h).leaves fun _ => ⟨rfl, rfl, rfl, nofun⟩
  | rscan =>
    obtain ⟨-, b, -, rfl⟩ := exec_rscan_next h
    exact (leaves_paintCell s.idx b s).trans ⟨rfl, rfl, rfl, nofun⟩
  | sync =>
    obtain ⟨-, rfl⟩ | ⟨-, rfl⟩ := exec_sync_next h
    · exact ⟨rfl, rfl, rfl, fun _ => rfl⟩
    · exact ⟨rfl, rfl, rfl, fun _ => rfl⟩
  | coreLoad bytes =>
    obtain ⟨-, -, rfl⟩ := issueLoad_next h
    exact (issued _ _ s).leaves fun _ => ⟨rfl, rfl, rfl, fun _ => rfl⟩
  | coreStep | coreTickTimers | coreKeyEvent | coreReadDisplay =>
    injection h with h; subst h; exact (issued _ _ s).leaves fun _ => ⟨rfl, rfl, rfl, fun _ => rfl⟩

/-- Settles O60: the four excluded instructions are those that paint. -/
theorem surfaceIsWrittenByDrawCommandsAlone : Obligations.SurfaceIsWrittenByDrawCommandsAlone := by
  unfold Obligations.SurfaceIsWrittenByDrawCommandsAlone
  intro i s t hrclear hrscan hclear hfill h a
  have hpaints : i.paints = false := by
    cases i
    case rclear => exact absurd rfl hrclear
    case rscan => exact absurd rfl hrscan
    case drawClear c => exact absurd rfl (hclear c)
    case drawFill x y side c => exact absurd rfl (hfill x y side c)
    all_goals rfl
  rw [(exec_leaves h).surf hpaints]

/-- Everything a step that answers a next state can have done; an instruction from the inlet has its word taken first. -/
theorem step_next_cases {s t : State} (h : step s = .next t) :
    t = (hardReset s).advance ∨ t = s.advance ∨
    ∃ i u v, (u = s ∨ u = s.setCmdIn none) ∧ exec i u = .next v ∧ t = v.advance := by
  obtain ⟨r, hf⟩ | ⟨-, -, ⟨-, hf⟩ | ⟨-, -, hf⟩ | ⟨-, -, ⟨-, hf⟩ | ⟨f, w, i, -, -, hf⟩⟩⟩ := fetch_cases s
  · simp [step, hf] at h
  · simp only [step, hf] at h; injection h with h; exact .inl h.symm
  · simp only [step, hf] at h; injection h with h; exact .inr (.inl h.symm)
  · simp only [step, hf] at h
    obtain ⟨v, hv, ht⟩ := afterExec_next h
    exact .inr (.inr ⟨_, _, v, .inl rfl, hv, ht⟩)
  · simp only [step, hf] at h
    obtain ⟨v, hv, ht⟩ := afterExec_next h
    exact .inr (.inr ⟨_, _, v, .inr rfl, hv, ht⟩)

/-- Settles O59: a reset and a hold keep the record by their definitions, an instruction by `exec_leaves`. -/
theorem configurationIsNeverWritten : Obligations.ConfigurationIsNeverWritten := by
  unfold Obligations.ConfigurationIsNeverWritten
  intro s t h
  obtain rfl | rfl | ⟨i, u, v, hu, hv, rfl⟩ := step_next_cases h
  · rfl
  · rfl
  · rw [State.advance_cfg, (exec_leaves hv).cfg]
    obtain rfl | rfl := hu
    · rfl
    · rfl

/-- The three operations of a render leave the core as it is: the only command among them is `read_display()`. -/
theorem exec_render_core {i : Instr} {s t : State} (hi : i = .rclear ∨ i = .rscan ∨ i = .present)
    (h : exec i s = .next t) : t.core = s.core := by
  obtain rfl | rfl | rfl := hi
  · have hsent := (exec_rclear_next h).keepsCore fun u => (keepsCore_emit (.clear .bg) u).trans (.of_eq rfl rfl)
    rw [hsent.1, State.sent_readDisplay, State.log_core]
  · obtain ⟨-, b, -, rfl⟩ := exec_rscan_next h
    exact (keepsCore_paintCell s.idx b s).1
  · injection h with h; subst h; rfl

/-- Settles O47: the PixelBuffer is the core's, and the core stands still. -/
theorem pixelBufferIsStableDuringARender : Obligations.PixelBufferIsStableDuringARender := by
  unfold Obligations.PixelBufferIsStableDuringARender
  intro i s t hi h
  have hcore := exec_render_core hi h
  exact ⟨hcore, fun j => by rw [hcore]⟩

end Sys2Proof.Machine
end

section
/-! PROOFS. O53 (U12) and O54 (R240): what a step does before it comes to any operation. `rst` goes before everything, and a
command that has not completed before every operation. -/

namespace Sys2Proof.Machine

/-- `rst` is answered by the reset, inside a command or outside one and whatever stands at the inlet (R216, R240). -/
theorem step_of_rst {s : State} (hwf : s.cfg.wf = true) (hfits : s.core.fits s.cfg = true)
    (hrst : s.host.now.rst = true) : step s = .next (hardReset s).advance := by
  have hfetch : fetch s = .reset := by simp [fetch, hwf, hfits, hrst]
  rw [step, hfetch]

/-- A command in flight holds the block (U12). -/
theorem step_of_inFlight {s : State} (hwf : s.cfg.wf = true) (hfits : s.core.fits s.cfg = true)
    (hrst : s.host.now.rst = false) (hfly : s.inFlight ≠ none) : step s = .next s.advance := by
  have hfetch : fetch s = .wait := by simp [fetch, hwf, hfits, hrst, Option.isSome_iff_ne_none.mpr hfly]
  rw [step, hfetch]

/-- Settles O54: the next state is the reset state, which the laws of `hardReset` give field by field. -/
theorem resetOverridesEverything : Obligations.ResetOverridesEverything := by
  unfold Obligations.ResetOverridesEverything
  intro s hwf hfits hrst
  exact ⟨_, step_of_rst hwf hfits hrst, rfl, rfl, rfl, rfl, rfl, rfl, rfl, ⟨_, rfl⟩, rfl, rfl, rfl,
    Core.fresh_loaded s.core, rfl⟩

/-- Settles O53: `issue_hangs` is the entry, and `step_of_inFlight` the hold. -/
theorem commandThatNeverCompletesHoldsTheBlock : Obligations.CommandThatNeverCompletesHoldsTheBlock := by
  unfold Obligations.CommandThatNeverCompletesHoldsTheBlock
  refine ⟨fun s c k hc => issue_hangs hc, fun s hready hrst hfly => ?_⟩
  obtain ⟨hwf, hfits, -⟩ := hready
  exact step_of_inFlight hwf hfits hrst hfly

/-- Settles O55: the table of R36 is the definition of the reset state. -/
theorem resetValuesAreTheTable : Obligations.ResetValuesAreTheTable := by
  unfold Obligations.ResetValuesAreTheTable
  exact ⟨rfl, rfl, rfl, rfl, rfl, rfl, rfl, rfl, rfl, rfl, rfl⟩

end Sys2Proof.Machine
end

section
/-! PROOFS. O57 and O52 (10_state.md sections 1 and 3): the register invariant. Most of it does not speak of `PHASE`, and is
kept write by write; what is left is `CAUSE` and the entry conditions of STEP and RSCAN, which are due where `PHASE` moves. -/

namespace Sys2Proof.Machine

/-! ### The part of the invariant that does not speak of `PHASE` -/

/-- The configuration is well formed and matched to the core, the registers are in their ranges, the surface is canonical. -/
structure State.InRange (s : State) : Prop where
  ready : s.Ready
  lines : s.LinesInv
  stepcnt : s.stepcnt ≤ s.cfg.frameBudget
  idx : s.idx ≤ s.cfg.cells
  surf : s.SurfInv

theorem State.Inv.inRange {s : State} (h : s.Inv) : s.InRange := by
  obtain ⟨hready, hlines, ⟨hstepcnt, hidx, -⟩, -, hsurf⟩ := h
  exact ⟨hready, hlines, hstepcnt, hidx, hsurf⟩

/-- The core moves, its display keeps its size (R195, R196). -/
theorem State.InRange.sent {s : State} (h : s.InRange) (c : CoreCmd) : (s.sent c).InRange := by
  obtain ⟨hwf, hfits, hcmd⟩ := h.ready
  exact ⟨⟨hwf, Core.apply_fits s.cfg c hfits, hcmd⟩, h.lines, h.stepcnt, h.idx, h.surf⟩

theorem State.InRange.log {s : State} (h : s.InRange) (e : Event) : (s.log e).InRange :=
  ⟨h.ready, h.lines, h.stepcnt, h.idx, h.surf⟩

theorem State.InRange.setStepcnt {s : State} (h : s.InRange) {n : Nat} (hn : n ≤ s.cfg.frameBudget) :
    (s.setStepcnt n).InRange := ⟨h.ready, h.lines, hn, h.idx, h.surf⟩

theorem State.InRange.setIdx {s : State} (h : s.InRange) {n : Nat} (hn : n ≤ s.cfg.cells) : (s.setIdx n).InRange :=
  ⟨h.ready, h.lines, h.stepcnt, hn, h.surf⟩

theorem State.InRange.emit {s : State} (h : s.InRange) (d : DrawCmd) : (emit d s).InRange := by
  obtain ⟨hsurf, hshown⟩ := h.surf
  exact ⟨h.ready, h.lines, h.stepcnt, h.idx, drawOn_wf s.cfg d hsurf, displayAfter_wf d hsurf hshown⟩

theorem State.InRange.paintCell {s : State} (h : s.InRange) (i : Nat) (b : Bool) : (paintCell i b s).InRange := by
  cases b
  · exact h
  · exact h.emit _

/-- SAMPLE's three writes satisfy R23 whatever `PREV` was. -/
theorem State.InRange.setLines {s : State} (h : s.InRange) (v prev : Nat) :
    (s.setLines (s.cfg.newlyPressed (s.cfg.lines v) prev) (s.cfg.newlyReleased (s.cfg.lines v) prev)
      (s.cfg.lines v)).InRange := by
  refine ⟨h.ready, ⟨Config.lines_lt _ _, Config.newlyPressed_lt _ _ _, Config.newlyReleased_lt _ _ _, fun j => ?_⟩,
    h.stepcnt, h.idx, h.surf⟩
  simp only [State.setLines_down, State.setLines_up, State.setLines_prev, Config.testBit_newlyPressed,
    Config.testBit_newlyReleased]
  cases (s.cfg.lines v).testBit j <;> simp

/-! ### The whole invariant, by where `PHASE` goes -/

/-- In BOOT and in the running phases `CAUSE` is 0 (R26). -/
theorem State.causeInv_iff_of_live {s : State} (hp : s.phase.isTerminal = false) : s.CauseInv ↔ s.cause = .none := by
  unfold State.CauseInv
  cases hphase : s.phase
  case off | halt => rw [hphase] at hp; cases hp
  all_goals rfl

/-- The entry into a phase other than OFF and HALT. -/
theorem State.InRange.goto {s : State} (h : s.InRange) (hcause : s.cause = .none) {p : Phase}
    (hp : p.isTerminal = false) (hstep : p = .step → s.stepcnt < s.cfg.frameBudget)
    (hscan : p = .rscan → s.idx < s.cfg.cells) : (s.goto p).Inv :=
  ⟨h.ready, h.lines, ⟨h.stepcnt, h.idx, hstep, hscan⟩, (State.causeInv_iff_of_live hp).mpr hcause, h.surf⟩

theorem Cause.isTerminal_terminal (c : Cause) : c.terminal.isTerminal = true := by cases c <;> rfl

/-- The entry into OFF or HALT. -/
theorem State.InRange.raise {s : State} (h : s.InRange) {c : Cause} (hc : c ≠ .none) : (raise c s).Inv := by
  have hcause : (Machine.raise c s).CauseInv := by
    cases c
    case none => exact absurd rfl hc
    all_goals simp [State.CauseInv, Cause.terminal, Cause.code]
  have hlive {p : Phase} (hp : p.isTerminal = false) : c.terminal ≠ p := fun heq => by
    rw [← heq, c.isTerminal_terminal] at hp
    cases hp
  exact ⟨h.ready, h.lines, ⟨h.stepcnt, h.idx, fun hp => absurd hp (hlive rfl), fun hp => absurd hp (hlive rfl)⟩,
    hcause, h.surf⟩

theorem CoreCmd.cause_ne_none (c : CoreCmd) : c.cause ≠ .none := by cases c <;> nofun

/-- With no line pressed and none in either set, R23 says nothing. -/
theorem State.linesInv_of_zero {s : State} (hprev : s.prev = 0) (hdown : s.down = 0) (hup : s.up = 0) : s.LinesInv := by
  simp [State.LinesInv, hprev, hdown, hup]

theorem State.inv_resetOf {cfg : Config} (hwf : cfg.wf = true) : (State.resetOf cfg).Inv :=
  ⟨⟨hwf, rfl, rfl⟩, State.linesInv_of_zero rfl rfl rfl, ⟨Nat.zero_le _, Nat.zero_le _, nofun, nofun⟩, rfl, rfl, rfl⟩

theorem inv_hardReset {s : State} (h : s.Ready) : (hardReset s).Inv := by
  obtain ⟨hwf, hfits, -⟩ := h
  exact ⟨⟨hwf, Core.fresh_fits hfits, rfl⟩, State.linesInv_of_zero rfl rfl rfl,
    ⟨Nat.zero_le _, Nat.zero_le _, nofun, nofun⟩, rfl, rfl, rfl⟩

/-- The host's signals are no register. -/
theorem State.Inv.advance {s : State} (h : s.Inv) : s.advance.Inv := h

/-- Of a command sent in a phase other than OFF and HALT, only its success is to be checked. -/
theorem Issued.inv {c : CoreCmd} {k : State → State} {s t : State} (h : Issued c k s t) (hs : s.Inv)
    (hk : (k (s.sent c)).Inv) : t.Inv := by
  obtain ⟨-, -, rfl⟩ | ⟨-, -, rfl⟩ | ⟨-, rfl⟩ := h
  · exact hk
  · exact ((hs.inRange.sent c).log _).raise c.cause_ne_none
  · have hsent : (s.sent c).InRange := hs.inRange.sent c
    obtain ⟨-, -, hcounter, hcause, -⟩ := hs
    exact ⟨hsent.ready, hsent.lines, hcounter, hcause, hsent.surf⟩

/-- The phase after STEP, by the new count (R138). -/
theorem phaseAfterStep_cases {cfg : Config} {n : Nat} (hn : n ≤ cfg.frameBudget) :
    (n < cfg.frameBudget ∧ phaseAfterStep cfg n = .step) ∨ (n = cfg.frameBudget ∧ phaseAfterStep cfg n = .tick) := by
  obtain hlt | heq := Nat.lt_or_eq_of_le hn
  · exact .inl ⟨hlt, if_neg hlt.ne⟩
  · exact .inr ⟨heq, if_pos heq⟩

/-- The phase after RSCAN, by the new index (R162). -/
theorem phaseAfterScan_cases {cfg : Config} {n : Nat} (hn : n ≤ cfg.cells) :
    (n < cfg.cells ∧ phaseAfterScan cfg n = .rscan) ∨ (n = cfg.cells ∧ phaseAfterScan cfg n = .present) := by
  obtain hlt | heq := Nat.lt_or_eq_of_le hn
  · exact .inl ⟨hlt, if_neg hlt.ne⟩
  · exact .inr ⟨heq, if_pos heq⟩

theorem Config.cells_pos {cfg : Config} (h : cfg.wf = true) : 0 < cfg.cells := by
  obtain ⟨hw, hh, -⟩ := cfg.wf_iff.mp h
  exact Nat.mul_pos hw hh

theorem Config.frameBudget_pos {cfg : Config} (h : cfg.wf = true) : 0 < cfg.frameBudget := by
  obtain ⟨-, -, -, hb, -⟩ := cfg.wf_iff.mp h
  exact hb

/-! ### Every operation of `PHASE` keeps the invariant -/

theorem exec_step_inv {s t : State} (hs : s.Inv) (hcause : s.cause = .none) (h : exec .step s = .next t) : t.Inv := by
  obtain ⟨hlt, hi⟩ := exec_step_next h
  have hcounted : ((s.sent .step).setStepcnt (s.stepcnt + 1)).InRange := (hs.inRange.sent .step).setStepcnt hlt
  refine hi.inv hs ?_
  obtain ⟨hbelow, hp⟩ | ⟨-, hp⟩ := phaseAfterStep_cases hlt
  · rw [hp]
    exact hcounted.goto hcause rfl (fun _ => hbelow) nofun
  · rw [hp]
    exact hcounted.goto hcause rfl nofun nofun

theorem exec_rclear_inv {s t : State} (hs : s.Inv) (hcause : s.cause = .none) (h : exec .rclear s = .next t) :
    t.Inv := by
  have hopened : ((emit (.clear .bg) (s.sent .readDisplay)).setIdx 0).InRange :=
    ((hs.inRange.sent .readDisplay).emit (.clear .bg)).setIdx (Nat.zero_le _)
  refine (exec_rclear_next h).inv hs (hopened.goto ?_ rfl nofun fun _ => ?_)
  · simpa using hcause
  · simpa using Config.cells_pos hs.inRange.ready.1

theorem exec_rscan_inv {s t : State} (hs : s.Inv) (hcause : s.cause = .none) (h : exec .rscan s = .next t) :
    t.Inv := by
  obtain ⟨hlt, b, -, rfl⟩ := exec_rscan_next h
  obtain ⟨hcfg, -, -, -, -, -, -, hkept, -⟩ := paintCell_frame s.idx b s
  have hnext : s.idx + 1 ≤ (paintCell s.idx b s).cfg.cells := by rw [hcfg]; exact hlt
  have hcounted : ((paintCell s.idx b s).setIdx (s.idx + 1)).InRange := (hs.inRange.paintCell s.idx b).setIdx hnext
  obtain ⟨hbelow, hp⟩ | ⟨-, hp⟩ := phaseAfterScan_cases hlt
  · rw [hp]
    exact hcounted.goto (hkept.trans hcause) rfl nofun fun _ => by rwa [State.setIdx_cfg, hcfg]
  · rw [hp]
    exact hcounted.goto (hkept.trans hcause) rfl nofun nofun

theorem exec_phase_inv {s t : State} (hs : s.Inv) (h : exec s.phase.instr s = .next t) : t.Inv := by
  have hr : s.InRange := hs.inRange
  have hwf : s.cfg.wf = true := hr.ready.1
  cases hterm : s.phase.isTerminal with
  | true =>
    rw [exec_instr_of_isTerminal hterm] at h
    injection h with h
    exact h ▸ hs
  | false =>
    have hcause : s.cause = .none := by
      obtain ⟨-, -, -, hcause, -⟩ := hs
      exact (State.causeInv_iff_of_live hterm).mp hcause
    cases hp : s.phase <;> rw [hp] at h hterm
    case off | halt => cases hterm
    case boot =>
      obtain ⟨-, rfl⟩ | ⟨r, -, rfl⟩ | ⟨rom, -, -, -, hi⟩ := exec_boot_next h
      · exact hs
      · exact (hr.log _).raise (by cases r <;> nofun)
      · exact hi.inv hs (((hr.log _).sent _).goto hcause rfl nofun nofun)
    case sample =>
      injection h with h; subst h
      exact ((hr.log _).setLines s.host.now.keys s.prev).goto hcause rfl nofun nofun
    case press =>
      obtain ⟨-, rfl⟩ | ⟨k, -, hi⟩ := exec_press_next h
      · exact hr.goto hcause rfl nofun nofun
      · exact hi.inv hs ((hr.sent _).goto hcause rfl nofun nofun)
    case release =>
      obtain ⟨-, rfl⟩ | ⟨k, -, hi⟩ := exec_release_next h
      · exact (hr.setStepcnt (Nat.zero_le _)).goto hcause rfl (fun _ => Config.frameBudget_pos hwf) nofun
      · exact hi.inv hs
          (((hr.sent _).setStepcnt (Nat.zero_le _)).goto hcause rfl (fun _ => Config.frameBudget_pos hwf) nofun)
    case step => exact exec_step_inv hs hcause h
    case tick => exact (exec_tick_next h).inv hs ((hr.sent _).goto hcause rfl nofun nofun)
    case rclear => exact exec_rclear_inv hs hcause h
    case rscan => exact exec_rscan_inv hs hcause h
    case present =>
      injection h with h; subst h
      exact (hr.emit .present).goto hcause rfl nofun nofun
    case sync =>
      obtain ⟨-, rfl⟩ | ⟨-, rfl⟩ := exec_sync_next h
      · exact (hr.log _).goto hcause rfl nofun nofun
      · exact hs

theorem step_inv {s t : State} (hs : s.Inv) (h : step s = .next t) : t.Inv := by
  obtain ⟨-, rfl⟩ | ⟨-, -, rfl⟩ | ⟨-, -, u, hu, rfl⟩ := step_ready_cases hs.inRange.ready h
  · exact (inv_hardReset hs.inRange.ready).advance
  · exact hs.advance
  · exact (exec_phase_inv hs hu).advance

/-- Settles O57: a reset meets the invariant, a hold writes no register, and the operation of `PHASE` keeps it. -/
theorem stepKeepsTheRegisterInvariant : Obligations.StepKeepsTheRegisterInvariant := by
  unfold Obligations.StepKeepsTheRegisterInvariant
  intro s t hs h
  exact step_inv hs h

/-! ### `CAUSE` -/

/-- Where the invariant holds, a cause is recorded in OFF and HALT alone. -/
theorem State.Inv.isTerminal_of_cause {s : State} (h : s.Inv) (hcause : s.cause ≠ .none) : s.phase.isTerminal = true := by
  obtain ⟨-, -, -, hinv, -⟩ := h
  exact Bool.eq_true_of_not_eq_false fun hlive => hcause ((State.causeInv_iff_of_live hlive).mp hinv)

/-- Settles O52: a recorded cause means a terminal phase, which `step_of_isTerminal` holds; and a cause that is new in the
next state, which meets the invariant too, puts that state in OFF or HALT. -/
theorem causeIsWrittenOnce : Obligations.CauseIsWrittenOnce := by
  unfold Obligations.CauseIsWrittenOnce
  intro s t hs hrst h
  obtain ⟨hwf, hfits, -⟩ := hs.inRange.ready
  have hkept (hcause : s.cause ≠ .none) : t.cause = s.cause ∧ t.phase = s.phase := by
    rw [step_of_isTerminal hwf hfits hrst (hs.isTerminal_of_cause hcause)] at h
    injection h with h
    rw [← h]
    exact ⟨rfl, rfl⟩
  refine ⟨hkept, fun hnew => ?_⟩
  have hnone : s.cause = .none := by
    by_contra hcause
    exact hnew (hkept hcause).1
  have hterm : t.phase.isTerminal = true := (step_inv hs h).isTerminal_of_cause (by rwa [← hnone])
  refine ⟨hnone, ?_⟩
  cases hp : t.phase
  case off => exact .inl rfl
  case halt => exact .inr rfl
  all_goals rw [hp] at hterm; cases hterm

end Sys2Proof.Machine
end

section
/-! PROOFS. O24 (R135): the successor table. An operation that issues a command goes on to its own successor, or to HALT on a
fault, or stays where it is while the command has not completed. -/

namespace Sys2Proof.Machine

/-- Where a command leaves the block, as far as `PHASE` is concerned. -/
theorem Issued.phase_cases {c : CoreCmd} {k : State → State} {s t : State} (h : Issued c k s t) :
    t = k (s.sent c) ∨ t.phase = .halt ∨ (t.phase = s.phase ∧ t.inFlight ≠ none) := by
  obtain ⟨-, -, rfl⟩ | ⟨-, -, rfl⟩ | ⟨-, rfl⟩ := h
  · exact .inl rfl
  · exact .inr (.inl c.cause_terminal)
  · exact .inr (.inr ⟨rfl, nofun⟩)

/-- The operation of `PHASE` goes to a phase of the table, or stays inside a command. -/
theorem exec_phase_successor {s t : State} (h : exec s.phase.instr s = .next t) :
    (t.phase = s.phase ∧ t.inFlight ≠ none) ∨ Successor s.cfg t.stepcnt t.idx s.phase t.phase := by
  cases hp : s.phase <;> rw [hp] at h
  case off | halt => injection h with h; subst h; exact .inr hp
  case sample | present => injection h with h; subst h; exact .inr rfl
  case boot =>
    obtain ⟨-, rfl⟩ | ⟨r, -, rfl⟩ | ⟨rom, -, -, -, hi⟩ := exec_boot_next h
    · exact .inr (.inl hp)
    · exact .inr (.inr (.inr (.inl (by cases r <;> rfl))))
    · obtain rfl | hhalt | ⟨hq, hfly⟩ := hi.phase_cases
      · exact .inr (.inr (.inl rfl))
      · exact .inr (.inr (.inr (.inr hhalt)))
      · exact .inl ⟨hq.trans hp, hfly⟩
  case press =>
    obtain ⟨-, rfl⟩ | ⟨k, -, hi⟩ := exec_press_next h
    · exact .inr (.inl rfl)
    · obtain rfl | hhalt | ⟨hq, hfly⟩ := hi.phase_cases
      · exact .inr (.inl rfl)
      · exact .inr (.inr hhalt)
      · exact .inl ⟨hq.trans hp, hfly⟩
  case release =>
    obtain ⟨-, rfl⟩ | ⟨k, -, hi⟩ := exec_release_next h
    · exact .inr (.inl rfl)
    · obtain rfl | hhalt | ⟨hq, hfly⟩ := hi.phase_cases
      · exact .inr (.inl rfl)
      · exact .inr (.inr hhalt)
      · exact .inl ⟨hq.trans hp, hfly⟩
  case step =>
    obtain ⟨hlt, hi⟩ := exec_step_next h
    obtain rfl | hhalt | ⟨hq, hfly⟩ := hi.phase_cases
    · exact .inr ((phaseAfterStep_cases hlt).imp id .inl)
    · exact .inr (.inr (.inr hhalt))
    · exact .inl ⟨hq.trans hp, hfly⟩
  case tick =>
    obtain rfl | hhalt | ⟨hq, hfly⟩ := (exec_tick_next h).phase_cases
    · exact .inr (.inl rfl)
    · exact .inr (.inr hhalt)
    · exact .inl ⟨hq.trans hp, hfly⟩
  case rclear =>
    obtain rfl | hhalt | ⟨hq, hfly⟩ := (exec_rclear_next h).phase_cases
    · exact .inr (.inl rfl)
    · exact .inr (.inr hhalt)
    · exact .inl ⟨hq.trans hp, hfly⟩
  case rscan =>
    obtain ⟨hlt, b, -, rfl⟩ := exec_rscan_next h
    exact .inr (phaseAfterScan_cases hlt)
  case sync =>
    obtain ⟨-, rfl⟩ | ⟨-, rfl⟩ := exec_sync_next h
    · exact .inr (.inr rfl)
    · exact .inr (.inl hp)

/-- Settles O24: a running state performs the operation of `PHASE`, and a completed one is in no command. -/
theorem phaseFollowsTheSuccessorTable : Obligations.PhaseFollowsTheSuccessorTable := by
  unfold Obligations.PhaseFollowsTheSuccessorTable
  intro s t hruns h hfly
  rw [hruns.step_eq] at h
  obtain ⟨u, hu, rfl⟩ := afterExec_next h
  obtain ⟨-, hinside⟩ | hsucc := exec_phase_successor hu
  · exact absurd hfly hinside
  · exact hsucc

end Sys2Proof.Machine
end

section
/-! PROOFS. O35 (R166, R170) and O58 (R36): the draws since the last `clear`. As with the picture (R168) three phases have
something to say: RCLEAR enters the first of them with no draw, RSCAN adds one cell's fill, PRESENT its `present()`. -/

namespace Sys2Proof.Machine

/-- In the other phases the invariant asks nothing. -/
theorem State.fillInv_of_phase {s : State} (h : s.phase.holdsPicture = false) : s.FillInv := by
  refine ⟨fun hp => ?_, fun hp => ?_, fun hp => ?_⟩
  all_goals rw [hp] at h; cases h

theorem State.fillInv_resetOf (cfg : Config) : (State.resetOf cfg).FillInv := State.fillInv_of_phase rfl

theorem fillInv_hardReset (s : State) : (hardReset s).FillInv := State.fillInv_of_phase rfl

/-- The host's signals are not drawn. -/
theorem State.FillInv.advance {s : State} (h : s.FillInv) : s.advance.FillInv := h

/-- Only RCLEAR enters the render from outside it. -/
theorem Successor.holdsPicture {cfg : Config} {n i : Nat} {p q : Phase} (h : Successor cfg n i p q)
    (hp : p.holdsPicture = false) (hne : p ≠ .rclear) : q.holdsPicture = false := by
  cases p
  case rclear => exact absurd rfl hne
  case rscan | present | sync => cases hp
  case off | halt | sample => cases h; rfl
  case press | release | tick => obtain rfl | rfl := h <;> rfl
  case boot => obtain rfl | rfl | rfl | rfl := h <;> rfl
  case step => obtain ⟨-, rfl⟩ | ⟨-, rfl⟩ | rfl := h <;> rfl

/-! ### RCLEAR, RSCAN and PRESENT -/

theorem fillInv_cleared (s : State) : (((emit (.clear .bg) s).setIdx 0).goto .rscan).FillInv := by
  refine ⟨fun _ => ?_, nofun, nofun⟩
  simp

/-- RCLEAR clears, or goes to HALT, or stays in its phase. -/
theorem exec_rclear_fillInv {s t : State} (hp : s.phase = .rclear) (h : exec .rclear s = .next t) : t.FillInv := by
  obtain rfl | hhalt | ⟨hq, -⟩ := (exec_rclear_next h).phase_cases
  · exact fillInv_cleared _
  · exact State.fillInv_of_phase (by rw [hhalt]; rfl)
  · exact State.fillInv_of_phase (by rw [hq, hp]; rfl)

/-- One cell's draws follow those before it. -/
theorem sinceClear_paintCell (i : Nat) (b : Bool) (s : State) :
    sinceClear (drawCmds (paintCell i b s).trace) =
      sinceClear (drawCmds s.trace) ++ if b then [cellFill s.cfg i] else [] := by
  cases b
  · simp [paintCell]
  · simp [paintCell, cellFill]

/-- The fills below `IDX` and one more cell's are those below `IDX + 1`. -/
theorem exec_rscan_fillInv {s t : State} (hp : s.phase = .rscan) (hs : s.FillInv) (h : exec .rscan s = .next t) :
    t.FillInv := by
  obtain ⟨hscan, -⟩ := hs
  obtain ⟨hlt, b, hb, rfl⟩ := exec_rscan_next h
  obtain ⟨hcfg, -, -, -, -, -, -, -, hcore, -⟩ := paintCell_frame s.idx b s
  have hdraws : sinceClear (drawCmds (paintCell s.idx b s).trace) = fillsBelow s.cfg s.core (s.idx + 1) := by
    rw [sinceClear_paintCell, hscan hp, fillsBelow_succ hb]
  obtain ⟨-, hq⟩ | ⟨hlast, hq⟩ := phaseAfterScan_cases hlt
  · rw [hq]
    refine ⟨fun _ => ?_, nofun, nofun⟩
    simpa [hcfg, hcore] using hdraws
  · rw [hq]
    refine ⟨nofun, fun _ => ?_, nofun⟩
    simpa [hcfg, hcore, ← hlast] using hdraws

theorem fillInv_presented {s : State} (hs : s.FillInv) (hp : s.phase = .present) :
    ((emit .present s).goto .sync).FillInv := by
  obtain ⟨-, hdone, -⟩ := hs
  refine ⟨nofun, nofun, fun _ => ?_⟩
  simpa using hdone hp

/-! ### Every operation of `PHASE` keeps the invariant -/

theorem exec_phase_fillInv {s t : State} (hs : s.FillInv) (h : exec s.phase.instr s = .next t) : t.FillInv := by
  cases hout : s.phase.holdsPicture with
  | false =>
    by_cases hp : s.phase = .rclear
    · rw [hp] at h
      exact exec_rclear_fillInv hp h
    · obtain ⟨hq, -⟩ | hsucc := exec_phase_successor h
      · exact State.fillInv_of_phase (by rwa [hq])
      · exact State.fillInv_of_phase (hsucc.holdsPicture hout hp)
  | true =>
    cases hp : s.phase <;> rw [hp] at h hout
    case rscan => exact exec_rscan_fillInv hp hs h
    case present => injection h with h; subst h; exact fillInv_presented hs hp
    case sync =>
      obtain ⟨-, rfl⟩ | ⟨-, rfl⟩ := exec_sync_next h
      · exact State.fillInv_of_phase rfl
      · exact hs
    all_goals cases hout

/-! ### The number of fills -/

theorem length_fillsBelow (cfg : Config) (k : Core) (n : Nat) :
    (fillsBelow cfg k n).length = (List.range n).countP fun i => k.pixel i = some true := by
  rw [fillsBelow, List.length_map, List.countP_eq_length_filter]

/-- Settles O35: a reset leaves nothing to say, a command in flight draws nothing, the operation of `PHASE` keeps the
invariant; and at PRESENT there is one fill for each set cell. -/
theorem drawsSinceTheClearAreTheSetCells : Obligations.DrawsSinceTheClearAreTheSetCells := by
  unfold Obligations.DrawsSinceTheClearAreTheSetCells
  refine ⟨State.fillInv_resetOf, fun s t hinv hs h => ?_, fun s hp hs => ?_⟩
  · obtain ⟨-, rfl⟩ | ⟨-, -, rfl⟩ | ⟨-, -, u, hu, rfl⟩ := step_ready_cases hinv.inRange.ready h
    · exact (fillInv_hardReset s).advance
    · exact hs.advance
    · exact (exec_phase_fillInv hs hu).advance
  · obtain ⟨-, hdone, -⟩ := hs
    rw [hdone hp, length_fillsBelow]
    exact ⟨rfl, List.countP_le_length.trans_eq List.length_range⟩

/-- Settles O58: each invariant was shown of the reset state where its steps were shown to keep it. -/
theorem resetMeetsTheInvariants : Obligations.ResetMeetsTheInvariants := by
  unfold Obligations.ResetMeetsTheInvariants
  have hreset (cfg : Config) (hwf : cfg.wf = true) :
      (State.resetOf cfg).Inv ∧ (State.resetOf cfg).CountInv ∧ (State.resetOf cfg).RenderInv ∧
      (State.resetOf cfg).LoadInv ∧ (State.resetOf cfg).FillInv :=
    ⟨State.inv_resetOf hwf, State.countInv_resetOf cfg, State.renderInv_resetOf cfg, State.loadInv_resetOf cfg,
      State.fillInv_resetOf cfg⟩
  obtain ⟨hinv, hcount, hrender, hload, hfill⟩ := hreset Config.default (by decide)
  exact ⟨hinv, hcount, hrender, hload, hfill, hreset⟩

end Sys2Proof.Machine
end

section
/-! PROOFS. O14 (R115): the keymap as an encoder. Both it and the first-match search go down the table entry by entry. -/

namespace Sys2Proof

open Machine

/-- The encoder counts from wherever it starts. -/
theorem leastOne_eq_add (n q r : Nat) : leastOne n q r = q + leastOne n 0 r := by
  induction n generalizing q r with
  | zero => rfl
  | succ n ih =>
    simp only [leastOne]
    split
    · rfl
    · rw [ih (q + 1), ih (0 + 1)]
      omega

/-- The requests of a table are all 0 exactly when no entry's line is pressed. -/
theorem requests_eq_zero_iff (table : List KeyEntry) (v : Lines) :
    requests table v = 0 ↔ ∀ e ∈ table, v.testBit e.hline = false := by
  induction table with
  | nil => simp [requests]
  | cons e rest ih => simp [requests, ih]

/-- With a request, the entry looked up is the first one whose line is pressed. -/
theorem getElem?_leastOne {table : List KeyEntry} {v : Lines} (h : requests table v ≠ 0) :
    (table[leastOne table.length 0 (requests table v)]?).map KeyEntry.lkey = kmOf table v := by
  induction table with
  | nil => exact absurd rfl h
  | cons e rest ih =>
    cases hline : v.testBit e.hline with
    | true =>
      have hodd : requests (e :: rest) v % 2 = 1 := by
        rw [requests, hline, Bool.toNat_true]
        omega
      rw [List.length_cons, leastOne, if_pos hodd, kmOf_cons, hline]
      rfl
    | false =>
      have hrest : requests (e :: rest) v = 2 * requests rest v := by
        rw [requests, hline, Bool.toNat_false, Nat.zero_add]
      have hodd : ¬ 2 * requests rest v % 2 = 1 := by omega
      have hne : requests rest v ≠ 0 := fun hzero => h (by rw [hrest, hzero])
      rw [List.length_cons, hrest, leastOne, if_neg hodd, Nat.mul_div_cancel_left _ (by decide), leastOne_eq_add,
        Nat.zero_add, Nat.add_comm 1, List.getElem?_cons_succ, ih hne, kmOf_cons, hline]
      rfl

/-- Settles O14: without a request both are `none`, and with one `getElem?_leastOne` is the lookup. -/
theorem keymapIsAPriorityEncoder : Obligations.KeymapIsAPriorityEncoder := by
  unfold Obligations.KeymapIsAPriorityEncoder
  intro cfg v
  by_cases hzero : requests cfg.keymap v = 0
  · have hnone : cfg.km v = none := (kmOf_eq_none _ _).mpr ((requests_eq_zero_iff _ _).mp hzero)
    rw [hnone, kmEncoder, if_pos hzero]
  · rw [kmEncoder, if_neg hzero, getElem?_leastOne hzero, Config.km]

end Sys2Proof
end

section
/-! PROOFS. O10 (R91, R92, U5, U7) and O56: what a step makes of a word at the command inlet, and of a core of another size. -/

namespace Sys2Proof.Machine

theorem Phase.isTerminal_eq_false {p : Phase} (hoff : p ≠ .off) (hhalt : p ≠ .halt) : p.isTerminal = false := by
  cases p
  case off => exact absurd rfl hoff
  case halt => exact absurd rfl hhalt
  all_goals rfl

/-- Outside OFF and HALT the word at the inlet is taken and read (log entry 7). -/
theorem fetch_of_inlet {s : State} (hwf : s.cfg.wf = true) (hfits : s.core.fits s.cfg = true)
    (hrst : s.host.now.rst = false) (hfly : s.inFlight = none) (hoff : s.phase ≠ .off) (hhalt : s.phase ≠ .halt)
    {f : Format} {w : Nat} (hcmd : s.cmdIn = some (f, w)) :
    fetch s = fetched (decodeInlet s.cfg f w) (s.setCmdIn none) := by
  have hinlet : s.inlet = some (f, w) := (State.inlet_live (Phase.isTerminal_eq_false hoff hhalt)).trans hcmd
  simp [fetch, hwf, hfits, hrst, hfly, hinlet]

theorem step_of_mismatch {s : State} (hwf : s.cfg.wf = true) (hfits : s.core.fits s.cfg = false) :
    step s = .refused .displayMismatch := by
  have hfetch : fetch s = .reject .displayMismatch := by simp [fetch, hwf, hfits]
  rw [step, hfetch]

/-- Settles O10: the inlet rejects what the format's decoder rejects, for its reason; the size of the display is tested
first. -/
theorem reservedWordsAndMismatchedCoresAreRefused : Obligations.ReservedWordsAndMismatchedCoresAreRefused := by
  unfold Obligations.ReservedWordsAndMismatchedCoresAreRefused
  refine ⟨fun s f w why hwf hfits hrst hfly hoff hhalt hcmd hdec => ?_, fun s => step_of_mismatch⟩
  rw [step, fetch_of_inlet hwf hfits hrst hfly hoff hhalt hcmd, decodeInlet_error hdec, fetched]

/-- Settles O56: `PHASE`'s code decodes to the operation of `PHASE`, and outside format PH the inlet's decoder is the
format's. -/
theorem stepRunsTheDecodedInstruction : Obligations.StepRunsTheDecodedInstruction := by
  unfold Obligations.StepRunsTheDecodedInstruction
  refine ⟨fun s i hruns hdec => ?_, fun s f w i hwf hfits hrst hfly hoff hhalt hf hcmd hdec => ?_⟩
  · rw [decode_phase_code] at hdec
    injection hdec with hdec
    rw [hruns.step_eq, hdec]
  · rw [step, fetch_of_inlet hwf hfits hrst hfly hoff hhalt hcmd, decodeInlet_of_ne hf, hdec, fetched]
    rfl

end Sys2Proof.Machine
end

section
/-! PROOFS. O48 (R201): who reads which host signal. An instruction carries the host port along; what it does depends on the
one signal it reads, if it reads one. -/

namespace Sys2Proof.Machine

/-- A function of the state that carries the host port along. -/
def CarriesHost (k : State → State) : Prop := ∀ (s : State) (h : HostPort), k (s.setHost h) = (k s).setHost h

theorem carriesHost_id : CarriesHost fun t => t := fun _ _ => rfl

theorem carriesHost_goto (p : Phase) : CarriesHost fun t => t.goto p := fun _ _ => rfl

/-- A core command's answer does not depend on the host. -/
theorem CarriesHost.issue {k : State → State} (hk : CarriesHost k) (c : CoreCmd) : CarriesHost (issue c k) := by
  intro s h
  have hreply : (s.setHost h).reply c = s.reply c := rfl
  have hsent : (s.setHost h).sent c = (s.sent c).setHost h := rfl
  simp only [Machine.issue, hreply, hsent]
  split
  · split
    · rfl
    · exact hk _ h
  · rfl

theorem CarriesHost.report {k : State → State} (hk : CarriesHost k) (r : Option Key) (pressed : Bool) :
    CarriesHost (report r pressed k) := by
  cases r with
  | none => exact hk
  | some key => exact hk.issue _

theorem carriesHost_emit (d : DrawCmd) : CarriesHost (emit d) := fun _ _ => rfl

theorem carriesHost_paintCell (i : Nat) (b : Bool) : CarriesHost (paintCell i b) := by
  cases b
  · exact carriesHost_id
  · exact fun _ _ => rfl

theorem issueLoad_setHost {k : State → State} (hk : CarriesHost k) (bytes : List Byte) (s : State) (h : HostPort) :
    issueLoad bytes k (s.setHost h) = mapNext (fun t => t.setHost h) (issueLoad bytes k s) := by
  simp only [issueLoad, State.setHost_cfg, State.setHost_core, hk.issue _ s h]
  split
  · rfl
  · split <;> rfl

/-- Another host port makes no difference to an instruction but that it is carried along, when it shows SAMPLE the same key
lines, BOOT the same boot input and SYNC the same `vsync`. -/
theorem exec_setHost (i : Instr) (s : State) (h : HostPort) (hkeys : i = .sample → h.now.keys = s.host.now.keys)
    (hboot : i = .boot → h.now.boot = s.host.now.boot) (hvsync : i = .sync → h.now.vsync = s.host.now.vsync) :
    exec i (s.setHost h) = mapNext (fun t => t.setHost h) (exec i s) := by
  cases i with
  | off | halt | kmap | present | drawClear | drawPresent => rfl
  | sample =>
    have hlines : (s.setHost h).hostKeys = s.hostKeys := congrArg s.cfg.lines (hkeys rfl)
    simp only [exec, execSample, hlines]
    rfl
  | boot =>
    simp only [exec, execBoot, State.setHost_host, hboot rfl]
    split
    · rfl
    · rfl
    · exact issueLoad_setHost (carriesHost_goto .sample) _ (s.log _) h
  | sync =>
    simp only [exec, execSync, State.setHost_host, hvsync rfl]
    split <;> rfl
  | press => exact congrArg Host.Outcome.next ((carriesHost_goto .release).report (s.cfg.km s.down) true s h)
  | release =>
    have hk : CarriesHost fun t => (t.setStepcnt 0).goto .step := fun _ _ => rfl
    exact congrArg Host.Outcome.next (hk.report (s.cfg.km s.up) false s h)
  | step =>
    have hk : CarriesHost fun t => (t.setStepcnt (s.stepcnt + 1)).goto (phaseAfterStep s.cfg (s.stepcnt + 1)) :=
      fun _ _ => rfl
    have hdue : (s.setHost h).stepDue = s.stepDue := rfl
    simp only [exec, execStep, hdue, State.setHost_cfg, State.setHost_stepcnt, hk.issue _ s h]
    split <;> rfl
  | tick => exact congrArg Host.Outcome.next ((carriesHost_goto .rclear).issue .tickTimers s h)
  | rclear =>
    have hk : CarriesHost fun t => ((emit (.clear .bg) t).setIdx 0).goto .rscan := fun _ _ => rfl
    exact congrArg Host.Outcome.next (hk.issue .readDisplay s h)
  | rscan =>
    have hdue : (s.setHost h).cellDue = s.cellDue := rfl
    simp only [exec, execRscan, hdue, State.setHost_cfg, State.setHost_core, State.setHost_idx,
      carriesHost_paintCell _ _ s h]
    split
    · split <;> rfl
    · rfl
  | coreLoad bytes => exact issueLoad_setHost carriesHost_id bytes s h
  | coreStep => exact congrArg Host.Outcome.next (carriesHost_id.issue .step s h)
  | coreTickTimers => exact congrArg Host.Outcome.next (carriesHost_id.issue .tickTimers s h)
  | coreKeyEvent pressed key => exact congrArg Host.Outcome.next (carriesHost_id.issue (.keyEvent key pressed) s h)
  | coreReadDisplay => exact congrArg Host.Outcome.next (carriesHost_id.issue .readDisplay s h)
  | drawFill x y side c =>
    simp only [exec, execDrawFill, State.setHost_cfg, carriesHost_emit _ s h]
    split <;> rfl

/-- What is done to the host port of the next state may be said in terms of the port before, which is the same. -/
theorem mapNext_exec_congr {g g' : State → State} {i : Instr} {s : State}
    (hg : ∀ t : State, t.host = s.host → g t = g' t) : mapNext g (exec i s) = mapNext g' (exec i s) := by
  cases h : exec i s with
  | next t => exact congrArg Host.Outcome.next (hg t (exec_leaves h).host)
  | fault f => rfl
  | refused r => rfl

/-- Settles O48: each changed signal is a changed host port, which `exec_setHost` carries past every instruction but the
signal's reader; and the next step's signals come from the schedule or the free draws alone. -/
theorem hostSignalsAreReadByOneOperation : Obligations.HostSignalsAreReadByOneOperation := by
  unfold Obligations.HostSignalsAreReadByOneOperation
  refine ⟨fun i s v hi => ?_, fun i s b hi => ?_, fun i s v hi => ?_, fun s v b w => ⟨rfl, rfl, rfl⟩⟩
  · refine (exec_setHost i s { s.host with now := { s.host.now with keys := v } } (fun h => absurd h hi)
      (fun _ => rfl) fun _ => rfl).trans ?_
    exact mapNext_exec_congr fun t ht => by rw [State.withKeys, ht]
  · refine (exec_setHost i s { s.host with now := { s.host.now with boot := b } } (fun _ => rfl)
      (fun h => absurd h hi) fun _ => rfl).trans ?_
    exact mapNext_exec_congr fun t ht => by rw [State.withBoot, ht]
  · refine (exec_setHost i s { s.host with now := { s.host.now with vsync := v } } (fun _ => rfl) (fun _ => rfl)
      fun h => absurd h hi).trans ?_
    exact mapNext_exec_congr fun t ht => by rw [State.withVsync, ht]

end Sys2Proof.Machine
end

section
/-! PROOFS. O15 (R110), O16 and O18 (R120, R124, R125): KMAP, and SAMPLE's two sets bit by bit. -/

namespace Sys2Proof

/-- With no line pressed before, every pressed line is newly pressed. -/
theorem Config.newlyPressed_zero (cfg : Config) (v : Nat) : cfg.newlyPressed (cfg.lines v) 0 = cfg.lines v := by
  refine Nat.eq_of_testBit_eq fun j => ?_
  by_cases hj : j < cfg.nhk <;> simp [hj]

/-- With no line pressed before, none is newly released. -/
theorem Config.newlyReleased_zero (cfg : Config) (cur : Lines) : cfg.newlyReleased cur 0 = 0 := by
  refine Nat.eq_of_testBit_eq fun j => ?_
  simp

theorem Config.km_zero (cfg : Config) : cfg.km 0 = none :=
  (kmOf_eq_none _ _).mpr fun e _ => Nat.zero_testBit e.hline

end Sys2Proof

namespace Sys2Proof.Machine

/-- Only the block's own lines stand in `host_keys`. -/
theorem State.lt_nhk_of_hostKeys {s : State} {j : Nat} (h : s.hostKeys.testBit j = true) : j < s.cfg.nhk := by
  rw [State.hostKeys, Config.testBit_lines, Bool.and_eq_true, decide_eq_true_eq] at h
  exact h.1

/-- Settles O15: KMAP is one write, of `kmOut`. -/
theorem kmapEvaluatesTheKeymap : Obligations.KmapEvaluatesTheKeymap := by
  unfold Obligations.KmapEvaluatesTheKeymap
  intro v s
  rfl

/-- Settles O16: the bits of the two sets are those of R120 on the lines read, and the zero `PREV` of a first frame leaves
the lines themselves and nothing. -/
theorem sampleComputesTheTransitions : Obligations.SampleComputesTheTransitions := by
  unfold Obligations.SampleComputesTheTransitions
  intro s
  refine ⟨s.cfg.newlyPressed s.hostKeys s.prev, s.cfg.newlyReleased s.hostKeys s.prev, rfl, fun j => ?_,
    fun hprev => ?_⟩
  · rw [Config.testBit_newlyPressed, Config.testBit_newlyReleased, State.hostKeys, Config.testBit_lines]
    by_cases hj : j < s.cfg.nhk <;> simp [hj]
  · rw [hprev, Config.newlyReleased_zero]
    exact ⟨s.cfg.newlyPressed_zero s.host.now.keys, rfl, s.cfg.km_zero⟩

/-- Settles O18: what a held line, a line seen released and a line seen pressed make of R120's bits. -/
theorem heldLinesGiveNoEvent : Obligations.HeldLinesGiveNoEvent := by
  unfold Obligations.HeldLinesGiveNoEvent
  intro s
  have hdown (j : Nat) := s.cfg.testBit_newlyPressed s.hostKeys s.prev j
  have hup (j : Nat) := s.cfg.testBit_newlyReleased s.hostKeys s.prev j
  refine ⟨_, rfl, fun j hprev hcur => ⟨?_, ?_⟩, fun j hj hprev hcur => ?_, fun j hprev hcur => ?_,
    fun hcfg hprev hcur => ?_⟩
  · exact (hdown j).trans (by simp [hprev])
  · exact (hup j).trans (by simp [hcur])
  · exact (hup j).trans (by simp [hj, hprev, hcur])
  · exact (hdown j).trans (by simp [State.lt_nhk_of_hostKeys hcur, hprev, hcur])
  · have hset : s.cfg.newlyPressed s.hostKeys s.prev = 0x0010 := by
      rw [hcfg, hprev, hcur]
      decide
    refine ⟨hset, (congrArg s.cfg.km hset).trans ?_⟩
    rw [hcfg]
    decide

end Sys2Proof.Machine
end

section
/-! PROOFS. O23 (R141) and O25 (R96, R136): SYNC, and the operations of a frame. -/

namespace Sys2Proof.Machine

/-- Settles O23: SYNC is its test of `vsync`. -/
theorem syncWaitsForVsync : Obligations.SyncWaitsForVsync := by
  unfold Obligations.SyncWaitsForVsync
  refine ⟨fun s hv => ?_, fun s hv => ?_⟩
  · rw [exec, execSync, if_pos hv]
    rfl
  · rw [exec, execSync, hv, if_neg Bool.false_ne_true]

theorem macroFrame_eq (cfg : Config) :
    macroFrame cfg = [Instr.sample, .press, .release] ++ List.replicate cfg.frameBudget Instr.step ++
      [Instr.tick, .rclear] ++ List.replicate cfg.cells Instr.rscan ++ [Instr.present, .sync] := by
  simp [macroFrame, macroInput, macroCpu, macroRender]

/-- A frame's operations are as many as R136 says. -/
theorem length_macroFrame (cfg : Config) : (macroFrame cfg).length = frameLength cfg := by
  simp only [macroFrame_eq, List.length_append, List.length_replicate, List.length_cons, List.length_nil, frameLength]
  omega

/-- Settles O25: the parts of R96 laid end to end, and a run of one frame more with that frame put first. -/
theorem frameIsOnePassOfTheOperations : Obligations.FrameIsOnePassOfTheOperations := by
  unfold Obligations.FrameIsOnePassOfTheOperations
  refine ⟨macroFrame_eq, length_macroFrame, fun cfg n => ?_⟩
  rw [macroRun, List.replicate_succ, List.flatten_cons]
  rfl

end Sys2Proof.Machine
end

section
/-! PROOFS. O36, O37 and O38 (R180, R183, R185, R186, U1): BOOT, by the boot input presented and the image's length. O42
(R191): the command `load` by itself, which BOOT issues. -/

namespace Sys2Proof.Machine

/-- Settles O36: BOOT without a boot input is a hold, and an abort enters its cause's terminal phase, OFF. -/
theorem bootWaitsAndAborts : Obligations.BootWaitsAndAborts := by
  unfold Obligations.BootWaitsAndAborts
  refine ⟨fun s hb => ?_, fun s hb => ?_, fun s hb => ?_, rfl, rfl⟩
  · rw [exec, execBoot, hb]
  · rw [exec, execBoot, hb]
    rfl
  · rw [exec, execBoot, hb]
    rfl

theorem exec_boot_of_go {s : State} {rom : List Byte} (h : s.host.now.boot = some (.go rom)) :
    exec .boot s = issueLoad rom (fun t => t.goto .sample) (s.log (.bootGo rom)) := by
  rw [exec, execBoot, h]

/-! ### The two refusals of a load, and its two ends -/

theorem issueLoad_of_tooLong {bytes : List Byte} {s : State} (h : 2 ^ s.cfg.lenw ≤ bytes.length) (k : State → State) :
    issueLoad bytes k s = .refused .imageTooLong := if_pos h

theorem issueLoad_of_loaded {bytes : List Byte} {s : State} (h : bytes.length < 2 ^ s.cfg.lenw)
    (hl : s.core.loaded = true) (k : State → State) : issueLoad bytes k s = .refused .loadTwice := by
  rw [issueLoad, if_neg (Nat.not_le.mpr h), if_pos hl]

theorem issueLoad_of_fresh {bytes : List Byte} {s : State} (h : bytes.length < 2 ^ s.cfg.lenw)
    (hl : s.core.loaded = false) (k : State → State) : issueLoad bytes k s = .next (issue (.load bytes) k s) := by
  rw [issueLoad, if_neg (Nat.not_le.mpr h), hl, if_neg Bool.false_ne_true]

/-- An image of at most `ROM_MAX` bytes never faults (R185). -/
theorem State.reply_load_fault_of_le {s : State} {bytes : List Byte} (h : bytes.length ≤ s.cfg.romMax) :
    (s.reply (.load bytes)).fault = false := by
  rw [State.reply, Core.apply_load_fault, oversized, decide_eq_false (Nat.not_lt.mpr h)]

/-- An oversized image always does (R186). -/
theorem State.reply_load_fault_of_lt {s : State} {bytes : List Byte} (h : s.cfg.romMax < bytes.length) :
    (s.reply (.load bytes)).fault = true := by
  rw [State.reply, Core.apply_load_fault, oversized, decide_eq_true h]

/-- Settles O38: the two tests of `issueLoad`, which BOOT and the command share. -/
theorem loadIsRefusedTwiceOrTooLong : Obligations.LoadIsRefusedTwiceOrTooLong := by
  unfold Obligations.LoadIsRefusedTwiceOrTooLong
  refine ⟨fun s rom hb => ?_, fun s bytes => ?_⟩
  · rw [exec_boot_of_go hb]
    exact ⟨fun hlong => issueLoad_of_tooLong (s := s.log (.bootGo rom)) hlong _,
      fun hlen hl => issueLoad_of_loaded (s := s.log (.bootGo rom)) hlen hl _⟩
  · exact ⟨fun hlong => issueLoad_of_tooLong hlong _, fun hlen hl => issueLoad_of_loaded hlen hl _⟩

/-- Settles O37: the load is issued after its event is logged, and its length alone decides whether it faults. -/
theorem bootLoadsTheImage : Obligations.BootLoadsTheImage := by
  unfold Obligations.BootLoadsTheImage
  intro s rom hb hlen hl hc
  have hload : exec .boot s = .next (issue (.load rom) (fun t => t.goto .sample) (s.log (.bootGo rom))) := by
    rw [exec_boot_of_go hb]
    exact issueLoad_of_fresh (s := s.log (.bootGo rom)) hlen hl _
  have hc' : ((s.log (.bootGo rom)).reply (.load rom)).completes = true := hc
  refine ⟨fun hle => ?_, fun hgt => ?_⟩
  · rw [hload, issue_done hc' (State.reply_load_fault_of_le hle)]
    simp [State.sent, State.reply, State.log, State.setCore, State.goto]
  · rw [hload, issue_fault_eq hc' (State.reply_load_fault_of_lt hgt)]
    simp [State.reply, State.log, CoreCmd.cause]

/-! ### What the core has after a load -/

theorem Core.apply_load_loaded (cfg : Config) (bytes : List Byte) (k : Core) :
    (k.apply cfg (.load bytes)).core.loaded = true := by
  cases k <;> rfl

/-- Byte `i` stands at `LOAD_OFFSET + i` (R54). -/
theorem FakeCore.memAt_of_mem {f : FakeCore} {bytes : List Byte} (h : f.mem = some bytes) (cfg : Config) (i : Nat) :
    f.memAt cfg (cfg.loadOffset + i) = bytes[i]? := by
  simp [FakeCore.memAt, h]

theorem Core.mem_of_apply_load {cfg : Config} {bytes : List Byte} {k : Core} {f : FakeCore}
    (h : (k.apply cfg (.load bytes)).core = .fake f) : f.mem = some bytes := by
  cases k with
  | opaqueCore t l => cases h
  | fake g => cases h; rfl

/-- Settles O42: the command by itself is a load with nothing to follow. -/
theorem loadCommandCopiesTheImage : Obligations.LoadCommandCopiesTheImage := by
  unfold Obligations.LoadCommandCopiesTheImage
  intro s bytes hlen hl hc
  have hload : exec (.coreLoad bytes) s = .next (issue (.load bytes) (fun t => t) s) := issueLoad_of_fresh hlen hl _
  refine ⟨fun hle => ⟨?_, Core.apply_load_loaded _ _ _, fun f i b hf hb => ?_⟩, fun hgt => ?_⟩
  · rw [hload, issue_done hc (State.reply_load_fault_of_le hle)]
    rfl
  · rw [FakeCore.memAt_of_mem (Core.mem_of_apply_load hf), hb]
  · rw [hload, issue_fault_eq hc (State.reply_load_fault_of_lt hgt), CoreCmd.cause]

end Sys2Proof.Machine
end

section
/-! PROOFS. O40, O41 (R192 to R195), O44 (R163, R164, R199), O45 (R24, R50, R51) and O51 (R210, R31): the commands of the two
ports by themselves, the accesses that stop, and the causes. -/

namespace Sys2Proof.Machine

/-! ### The core command port -/

/-- Settles O40: a command by itself is issued with nothing to follow. -/
theorem coreCommandsMoveTheCore : Obligations.CoreCommandsMoveTheCore := by
  unfold Obligations.CoreCommandsMoveTheCore
  intro s i c hi hc
  have hexec : exec i s = .next (issue c (fun t => t) s) := by
    obtain ⟨rfl, rfl⟩ | ⟨rfl, rfl⟩ | ⟨k, p, rfl, rfl⟩ := hi <;> rfl
  rw [hexec]
  refine ⟨fun hf => ?_, fun hf => ?_⟩
  · rw [issue_done hc hf]
    rfl
  · rw [issue_fault_eq hc hf]

/-- Settles O41: as for the other commands, and `read_display()` leaves the core as it is. -/
theorem readDisplayChangesNoCoreState : Obligations.ReadDisplayChangesNoCoreState := by
  unfold Obligations.ReadDisplayChangesNoCoreState
  intro s hc
  refine ⟨fun hf => ?_, fun hf => ?_⟩
  · rw [exec, execCoreReadDisplay, issue_done hc hf, State.sent_readDisplay]
    rfl
  · rw [exec, execCoreReadDisplay, issue_fault_eq hc hf, State.reply, Core.apply_readDisplay, CoreCmd.cause]

/-! ### The draw port -/

/-- A `fill` fits exactly when its last column and its last row are on the surface (R50). -/
theorem drawFits_fill_iff (cfg : Config) (x y side : Nat) (c : Colour) :
    drawFits cfg (.fill x y side c) = true ↔ x + side ≤ cfg.surfW ∧ y + side ≤ cfg.surfH := by
  simp [drawFits]

/-- Settles O44: each command is its emission, a `fill` when it fits. -/
theorem drawCommandsReachTheSurface : Obligations.DrawCommandsReachTheSurface := by
  unfold Obligations.DrawCommandsReachTheSurface
  refine ⟨fun s c => rfl, fun s x y side c hx hy => ?_, fun s => rfl⟩
  rw [exec, execDrawFill, if_pos ((drawFits_fill_iff _ _ _ _ _).mpr ⟨hx, hy⟩)]
  rfl

/-- Settles O45: the operation's own test fails. -/
theorem accessesNeverIssuedStop : Obligations.AccessesNeverIssuedStop := by
  unfold Obligations.AccessesNeverIssuedStop
  refine ⟨fun s hi => ?_, fun s hn => ?_, fun s x y side c hout => ?_⟩
  · rw [exec, execRscan, State.cellDue, decide_eq_false (Nat.not_lt.mpr hi), if_neg Bool.false_ne_true]
  · rw [exec, execStep, State.stepDue, decide_eq_false (Nat.not_lt.mpr hn), if_neg Bool.false_ne_true]
  · have hfits : ¬ drawFits s.cfg (.fill x y side c) = true := by
      rw [drawFits_fill_iff]
      omega
    rw [exec, execDrawFill, if_neg hfits]

/-! ### The causes -/

/-- Settles O51: the three tables are the definitions of the codes, the terminal phases and the commands' causes. -/
theorem causeCodesAndTerminalPhases : Obligations.CauseCodesAndTerminalPhases := by
  unfold Obligations.CauseCodesAndTerminalPhases
  exact ⟨rfl, rfl, fun _ _ _ => rfl, fun _ => ⟨rfl, rfl⟩⟩

end Sys2Proof.Machine
end

section
/-! PROOFS. O27 (R136, R145): a frame. A run of operations that nothing disturbs is described once (`Ran`), and two such runs
follow each other (`Passes.append`). The frame is then INPUT, CPU, RENDER and SYNC of R96, each made of its operations, with
an induction over the budget for STEP and one over the cells for RSCAN. -/

namespace Sys2Proof.Machine

/-! ### Runs -/

theorem run_succ_of_step {M : Host.Core} {s t : M.State} (h : M.step s = .next t) (n : Nat) :
    M.run (n + 1) s = M.run n t := by
  rw [Host.Core.run, h]

/-- A run goes on from where a shorter one ended. -/
theorem run_add {M : Host.Core} {m : Nat} {s t : M.State} (h : M.run m s = .next t) (n : Nat) :
    M.run (m + n) s = M.run n t := by
  induction m generalizing s with
  | zero =>
    rw [Host.Core.run] at h
    injection h with h
    rw [Nat.zero_add, h]
  | succ m ih =>
    cases hstep : M.step s with
    | next u =>
      rw [run_succ_of_step hstep] at h
      rw [Nat.succ_add, run_succ_of_step hstep, ih h]
    | fault f => rw [Host.Core.run, hstep] at h; cases h
    | refused r => rw [Host.Core.run, hstep] at h; cases h

/-- The run from `s` to `t` performs exactly the operations `ops`, with the events `evs`; the core has had the commands among
them and nothing else, and no command is left in flight. -/
structure Ran (ops : List Instr) (evs : List Event) (s t : State) : Prop where
  run : Sys2Proof.core.run ops.length s = .next t
  performs : ∀ k, k < ops.length → ∃ u, Sys2Proof.core.run k s = .next u ∧ ops[k]? = some u.phase.instr
  cfg : t.cfg = s.cfg
  host : t.host = s.host.after ops.length
  core : t.core = s.core.after s.cfg (coreCmds evs)
  trace : t.trace = s.trace ++ evs
  inv : t.Inv
  inFlight : t.inFlight = none

theorem Ran.append {ops ops' : List Instr} {evs evs' : List Event} {s t u : State} (h : Ran ops evs s t)
    (h' : Ran ops' evs' t u) : Ran (ops ++ ops') (evs ++ evs') s u where
  run := by rw [List.length_append, run_add h.run, h'.run]
  performs k hk := by
    by_cases hfirst : k < ops.length
    · rw [List.getElem?_append_left hfirst]
      exact h.performs k hfirst
    · have hsum : ops.length + (k - ops.length) = k := by omega
      have hrest : k - ops.length < ops'.length := by rw [List.length_append] at hk; omega
      obtain ⟨v, hrun, hop⟩ := h'.performs (k - ops.length) hrest
      refine ⟨v, ?_, ?_⟩
      · rw [← hsum, run_add h.run, hrun]
      · rw [List.getElem?_append_right (Nat.not_lt.mp hfirst), hop]
  cfg := h'.cfg.trans h.cfg
  host := by rw [h'.host, h.host, List.length_append, HostPort.after_add]
  core := by rw [h'.core, h.core, h.cfg, coreCmds_append, Core.after_append]
  trace := by rw [h'.trace, h.trace, List.append_assoc]
  inv := h'.inv
  inFlight := h'.inFlight

/-! ### What disturbs no run -/

theorem HostPort.noReset_add {h : HostPort} {m n : Nat} (hn : h.NoReset (m + n)) :
    h.NoReset m ∧ (h.after m).NoReset n := by
  refine ⟨fun k hk => hn k (by omega), fun k hk => ?_⟩
  rw [← HostPort.after_add]
  exact hn (m + k) (by omega)

theorem Core.accepts_append {cfg : Config} {cs cs' : List CoreCmd} {k : Core} (h : k.accepts cfg (cs ++ cs') = true) :
    k.accepts cfg cs = true ∧ (k.after cfg cs).accepts cfg cs' = true := by
  induction cs generalizing k with
  | nil => exact ⟨rfl, h⟩
  | cons c rest ih =>
    obtain ⟨hc, hf, hrest⟩ := Core.accepts_cons h
    obtain ⟨hfirst, hlast⟩ := ih hrest
    exact ⟨by simp [Core.accepts, hc, hf, hfirst], hlast⟩

/-- From `s`, unless it is disturbed by a reset or by its core, the block performs `ops` with the events `evs` and comes to a
state that satisfies `Q`. -/
def Passes (ops : List Instr) (evs : List Event) (s : State) (Q : State → Prop) : Prop :=
  s.Inv → s.inFlight = none → s.host.NoReset ops.length → s.core.accepts s.cfg (coreCmds evs) = true →
    ∃ t, Ran ops evs s t ∧ Q t

theorem Passes.append {ops ops' : List Instr} {evs evs' : List Event} {s : State} {Q R : State → Prop}
    (h : Passes ops evs s Q) (h' : ∀ t, Ran ops evs s t → Q t → Passes ops' evs' t R) :
    Passes (ops ++ ops') (evs ++ evs') s R := by
  intro hinv hfly hhost hcore
  rw [List.length_append] at hhost
  rw [coreCmds_append] at hcore
  obtain ⟨hhost, hhost'⟩ := HostPort.noReset_add hhost
  obtain ⟨hcore, hcore'⟩ := Core.accepts_append hcore
  obtain ⟨t, ht, hQ⟩ := h hinv hfly hhost hcore
  rw [← ht.host] at hhost'
  rw [← ht.core, ← ht.cfg] at hcore'
  obtain ⟨u, hu, hR⟩ := h' t ht hQ ht.inv ht.inFlight hhost' hcore'
  exact ⟨u, ht.append hu, hR⟩

theorem Passes.mono {ops : List Instr} {evs : List Event} {s : State} {Q R : State → Prop} (h : Passes ops evs s Q)
    (hQR : ∀ t, Q t → R t) : Passes ops evs s R := by
  intro hinv hfly hhost hcore
  obtain ⟨t, ht, hQ⟩ := h hinv hfly hhost hcore
  exact ⟨t, ht, hQR t hQ⟩

/-- One operation, by what `exec` makes of it. -/
theorem passes_of_exec {p : Phase} {evs : List Event} {s : State} {Q : State → Prop} (hp : s.phase = p)
    (h : s.Inv → s.core.accepts s.cfg (coreCmds evs) = true →
      ∃ u, exec p.instr s = .next u ∧ u.inFlight = s.inFlight ∧ u.core = s.core.after s.cfg (coreCmds evs) ∧
        u.trace = s.trace ++ evs ∧ Q u.advance) :
    Passes [p.instr] evs s Q := by
  intro hinv hfly hhost hcore
  obtain ⟨u, hexec, hkept, hafter, htrace, hQ⟩ := h hinv hcore
  have hruns : s.Runs := ⟨hinv.inRange.ready, hhost 0 Nat.one_pos, hfly⟩
  have hstep : step s = .next u.advance := by rw [hruns.step_eq, hp, hexec, afterExec]
  have hleaves := exec_leaves hexec
  refine ⟨u.advance, ⟨run_succ_of_step hstep 0, fun k hk => ?_, hleaves.cfg, congrArg HostPort.advance hleaves.host,
    hafter, htrace, step_inv hinv hstep, hkept.trans hfly⟩, hQ⟩
  obtain rfl : k = 0 := Nat.lt_one_iff.mp hk
  exact ⟨s, rfl, by rw [hp]; rfl⟩

/-- A command the core accepts is followed by the rest of the operation. -/
theorem issue_of_accepts {c : CoreCmd} {s : State} (h : s.core.accepts s.cfg [c] = true) (k : State → State) :
    issue c k s = k (s.sent c) := by
  obtain ⟨hc, hf, -⟩ := Core.accepts_cons h
  exact issue_done hc hf

/-! ### INPUT -/

theorem passes_sample {s : State} (hp : s.phase = .sample) :
    Passes [.sample] [.sample s.hostKeys] s fun t => t.phase = .press ∧ t.prev = s.hostKeys ∧
      t.down = s.cfg.newlyPressed s.hostKeys s.prev ∧ t.up = s.cfg.newlyReleased s.hostKeys s.prev :=
  passes_of_exec hp fun _ _ => ⟨_, rfl, rfl, rfl, rfl, rfl, rfl, rfl, rfl⟩

theorem passes_press {s : State} (hp : s.phase = .press) :
    Passes [.press] (keyEvents (s.cfg.km s.down) true) s fun t =>
      t.phase = .release ∧ t.prev = s.prev ∧ t.up = s.up := by
  refine passes_of_exec hp fun _ hcore => ?_
  cases hkm : s.cfg.km s.down with
  | none => exact ⟨_, exec_press_of_km_none hkm, rfl, rfl, by simp [keyEvents], rfl, rfl, rfl⟩
  | some k =>
    rw [hkm] at hcore
    refine ⟨_, exec_press_of_km_some hkm, ?_⟩
    rw [issue_of_accepts hcore]
    exact ⟨rfl, rfl, rfl, rfl, rfl, rfl⟩

theorem passes_release {s : State} (hp : s.phase = .release) :
    Passes [.release] (keyEvents (s.cfg.km s.up) false) s fun t =>
      t.phase = .step ∧ t.prev = s.prev ∧ t.stepcnt = 0 := by
  refine passes_of_exec hp fun _ hcore => ?_
  cases hkm : s.cfg.km s.up with
  | none => exact ⟨_, exec_release_of_km_none hkm, rfl, rfl, by simp [keyEvents], rfl, rfl, rfl⟩
  | some k =>
    rw [hkm] at hcore
    refine ⟨_, exec_release_of_km_some hkm, ?_⟩
    rw [issue_of_accepts hcore]
    exact ⟨rfl, rfl, rfl, rfl, rfl, rfl⟩

/-- The events of a frame's INPUT: `v` is its sample, `prev` the sample before. -/
def inputTrace (cfg : Config) (v prev : Lines) : List Event :=
  [Event.sample v] ++ (keyEvents (cfg.km (cfg.newlyPressed v prev)) true ++
    keyEvents (cfg.km (cfg.newlyReleased v prev)) false)

theorem passes_input {s : State} (hp : s.phase = .sample) :
    Passes macroInput (inputTrace s.cfg s.hostKeys s.prev) s fun t =>
      t.phase = .step ∧ t.prev = s.hostKeys ∧ t.stepcnt = 0 := by
  refine (passes_sample hp).append (ops' := [.press, .release]) fun t ht => ?_
  rintro ⟨htp, htprev, htdown, htup⟩
  have hpress := passes_press htp
  rw [ht.cfg, htdown] at hpress
  refine hpress.append (ops' := [.release]) fun u hu => ?_
  rintro ⟨hup, huprev, huup⟩
  have hrelease := passes_release hup
  rw [hu.cfg, ht.cfg, huup, htup, huprev, htprev] at hrelease
  exact hrelease

/-! ### CPU -/

theorem passes_step {s : State} (hp : s.phase = .step) (hlt : s.stepcnt < s.cfg.frameBudget) :
    Passes [.step] [.core .step] s fun t =>
      t.phase = phaseAfterStep s.cfg (s.stepcnt + 1) ∧ t.prev = s.prev ∧ t.stepcnt = s.stepcnt + 1 := by
  refine passes_of_exec hp fun _ hcore => ⟨_, exec_step_of_lt hlt, ?_⟩
  rw [issue_of_accepts hcore]
  exact ⟨rfl, rfl, rfl, rfl, rfl, rfl⟩

/-- The remaining STEPs of the budget, one after the other. -/
theorem passes_steps (n : Nat) {s : State} (hp : s.phase = .step) (hn : s.stepcnt + (n + 1) = s.cfg.frameBudget) :
    Passes (List.replicate (n + 1) .step) (List.replicate (n + 1) (.core .step)) s fun t =>
      t.phase = .tick ∧ t.prev = s.prev := by
  induction n generalizing s with
  | zero =>
    refine (passes_step hp (by omega)).mono fun t => ?_
    rintro ⟨htp, htprev, -⟩
    exact ⟨htp.trans (if_pos hn), htprev⟩
  | succ n ih =>
    refine (passes_step hp (by omega)).append (ops' := List.replicate (n + 1) .step) fun t ht => ?_
    rintro ⟨htp, htprev, htcount⟩
    have hmore : s.stepcnt + 1 ≠ s.cfg.frameBudget := by omega
    have htn : t.stepcnt + (n + 1) = t.cfg.frameBudget := by rw [htcount, ht.cfg]; omega
    have hrest := ih (htp.trans (if_neg hmore)) htn
    rwa [htprev] at hrest

theorem passes_tick {s : State} (hp : s.phase = .tick) :
    Passes [.tick] [Event.core .tickTimers] s fun t => t.phase = .rclear ∧ t.prev = s.prev := by
  refine passes_of_exec hp fun _ hcore => ⟨_, rfl, ?_⟩
  rw [issue_of_accepts hcore]
  exact ⟨rfl, rfl, rfl, rfl, rfl⟩

/-- The events of a frame's CPU. -/
def cpuTrace (cfg : Config) : List Event := List.replicate cfg.frameBudget (Event.core .step) ++ [Event.core .tickTimers]

theorem passes_cpu {s : State} (hwf : s.cfg.wf = true) (hp : s.phase = .step) (hcount : s.stepcnt = 0) :
    Passes (macroCpu s.cfg) (cpuTrace s.cfg) s fun t =>
      t.phase = .rclear ∧ t.prev = s.prev := by
  obtain ⟨n, hn⟩ := Nat.exists_eq_add_one.mpr (Config.frameBudget_pos hwf)
  have hsteps := passes_steps n hp (by omega)
  rw [← hn] at hsteps
  refine hsteps.append fun t _ => ?_
  rintro ⟨htp, htprev⟩
  rw [← htprev]
  exact passes_tick htp

/-! ### RENDER -/

theorem passes_rclear {s : State} (hp : s.phase = .rclear) :
    Passes [.rclear] [Event.core .readDisplay, Event.draw (.clear .bg)] s fun t =>
      t.phase = .rscan ∧ t.prev = s.prev ∧ t.idx = 0 := by
  refine passes_of_exec hp fun _ hcore => ⟨_, rfl, ?_⟩
  rw [issue_of_accepts hcore, State.sent_readDisplay]
  have hstill : s.core.after s.cfg [.readDisplay] = s.core := Core.apply_readDisplay s.cfg s.core
  have hcmds : coreCmds [Event.core .readDisplay, Event.draw (.clear .bg)] = [.readDisplay] := rfl
  simp [hcmds, hstill]

/-- A core whose display fits has a bit for every cell (R51). -/
theorem Core.exists_pixel {cfg : Config} {k : Core} (hfits : k.fits cfg = true) {i : Nat} (hi : i < cfg.cells) :
    ∃ b, k.pixel i = some b := by
  cases k with
  | opaqueCore t l => exact ⟨_, rfl⟩
  | fake f =>
    simp only [Core.fits, Bool.and_eq_true, decide_eq_true_eq] at hfits
    exact ⟨_, List.getElem?_eq_getElem (by rwa [hfits.1])⟩

/-- The fills of the set cells among the `n` from index `i` on, ascending. -/
def fillsFrom (cfg : Config) (k : Core) (i n : Nat) : List DrawCmd :=
  ((List.range' i n).filter fun j => k.pixel j = some true).map (cellFill cfg)

theorem fillsFrom_zero (cfg : Config) (k : Core) (n : Nat) : fillsFrom cfg k 0 n = fillsBelow cfg k n := by
  rw [fillsFrom, fillsBelow, List.range_eq_range']
  rfl

/-- The first cell's fill, when it is set, and those of the cells after it. -/
theorem fillsFrom_succ {cfg : Config} {k : Core} {i : Nat} {b : Bool} (h : k.pixel i = some b) (n : Nat) :
    fillsFrom cfg k i (n + 1) = (if b then [cellFill cfg i] else []) ++ fillsFrom cfg k (i + 1) n := by
  cases b <;> simp [fillsFrom, List.range'_succ, h]

/-- Draws are no business of the core's. -/
@[simp] theorem coreCmds_map_draw (ds : List DrawCmd) : coreCmds (ds.map Event.draw) = [] := by
  simp [coreCmds, List.filterMap_map]

@[simp] theorem coreCmds_replicate_core (n : Nat) (c : CoreCmd) :
    coreCmds (List.replicate n (.core c)) = List.replicate n c := by
  simp [coreCmds]

theorem passes_rscan {s : State} (hp : s.phase = .rscan) (hlt : s.idx < s.cfg.cells) {b : Bool}
    (hb : s.core.pixel s.idx = some b) :
    Passes [.rscan] ((if b then [cellFill s.cfg s.idx] else []).map Event.draw) s fun t =>
      t.phase = phaseAfterScan s.cfg (s.idx + 1) ∧ t.prev = s.prev ∧ t.idx = s.idx + 1 := by
  obtain ⟨-, -, hprev, -, -, -, -, -, hcore, -, -, hfly, -⟩ := paintCell_frame s.idx b s
  have htrace : (paintCell s.idx b s).trace =
      s.trace ++ (if b then [cellFill s.cfg s.idx] else []).map Event.draw := by
    cases b <;> simp [paintCell]
  refine passes_of_exec hp fun _ _ => ⟨_, exec_rscan_of_pixel hlt hb, hfly, ?_, htrace, rfl, hprev, rfl⟩
  rw [coreCmds_map_draw]
  exact hcore

/-- The remaining RSCANs of the display, one after the other; the core stands still between them. -/
theorem passes_rscans (n : Nat) {s : State} (hfits : s.core.fits s.cfg = true) (hp : s.phase = .rscan)
    (hn : s.idx + (n + 1) = s.cfg.cells) :
    Passes (List.replicate (n + 1) .rscan) ((fillsFrom s.cfg s.core s.idx (n + 1)).map Event.draw) s fun t =>
      t.phase = .present ∧ t.prev = s.prev := by
  induction n generalizing s with
  | zero =>
    obtain ⟨b, hb⟩ := Core.exists_pixel hfits (i := s.idx) (by omega)
    have hlast : fillsFrom s.cfg s.core s.idx (0 + 1) = if b then [cellFill s.cfg s.idx] else [] := by
      rw [fillsFrom_succ hb, fillsFrom, List.range'_zero]
      exact List.append_nil _
    rw [hlast]
    refine (passes_rscan hp (by omega) hb).mono fun t => ?_
    rintro ⟨htp, htprev, -⟩
    exact ⟨htp.trans (if_pos hn), htprev⟩
  | succ n ih =>
    obtain ⟨b, hb⟩ := Core.exists_pixel hfits (i := s.idx) (by omega)
    rw [fillsFrom_succ hb, List.map_append]
    refine (passes_rscan hp (by omega) hb).append (ops' := List.replicate (n + 1) .rscan) fun t ht => ?_
    rintro ⟨htp, htprev, htidx⟩
    have htcore : t.core = s.core := by
      rw [ht.core, coreCmds_map_draw]
      rfl
    have hmore : s.idx + 1 ≠ s.cfg.cells := by omega
    have htn : t.idx + (n + 1) = t.cfg.cells := by rw [htidx, ht.cfg]; omega
    have hrest := ih (by rwa [htcore, ht.cfg]) (htp.trans (if_neg hmore)) htn
    rwa [ht.cfg, htcore, htidx, htprev] at hrest

theorem passes_present {s : State} (hp : s.phase = .present) :
    Passes [.present] [.draw .present] s fun t => t.phase = .sync ∧ t.prev = s.prev :=
  passes_of_exec hp fun _ _ =>
    ⟨_, rfl, emit_inFlight .present s, emit_core .present s, emit_trace .present s, rfl, emit_prev .present s⟩

/-- The events of a frame's RENDER over a core. -/
def renderTrace (cfg : Config) (k : Core) : List Event :=
  [Event.core .readDisplay, Event.draw (.clear .bg)] ++ (fillsBelow cfg k cfg.cells).map Event.draw ++ [Event.draw .present]

theorem passes_render {s : State} (hwf : s.cfg.wf = true) (hfits : s.core.fits s.cfg = true) (hp : s.phase = .rclear) :
    Passes (macroRender s.cfg) (renderTrace s.cfg s.core) s fun t => t.phase = .sync ∧ t.prev = s.prev := by
  obtain ⟨n, hn⟩ := Nat.exists_eq_add_one.mpr (Config.cells_pos hwf)
  rw [macroRender, renderTrace]
  have hscans : Passes ([Instr.rclear] ++ List.replicate s.cfg.cells Instr.rscan)
      ([Event.core .readDisplay, Event.draw (.clear .bg)] ++ (fillsBelow s.cfg s.core s.cfg.cells).map Event.draw) s
      fun t => t.phase = .present ∧ t.prev = s.prev := by
    refine (passes_rclear hp).append fun t ht => ?_
    rintro ⟨htp, htprev, htidx⟩
    have htcore : t.core = s.core := ht.core.trans (Core.apply_readDisplay s.cfg s.core)
    have hrest := passes_rscans n (by rwa [htcore, ht.cfg]) htp (by rw [htidx, ht.cfg]; omega)
    rwa [ht.cfg, htcore, htidx, htprev, ← hn, fillsFrom_zero] at hrest
  refine hscans.append fun t _ => ?_
  rintro ⟨htp, htprev⟩
  rw [← htprev]
  exact passes_present htp

/-! ### SYNC and the frame -/

theorem passes_sync {s : State} (hp : s.phase = .sync) (hv : s.host.now.vsync = true) :
    Passes [.sync] [.vsync] s fun t => t.phase = .sample ∧ t.prev = s.prev :=
  passes_of_exec hp fun _ _ => ⟨(s.log .vsync).goto .sample, if_pos hv, rfl, rfl, rfl, rfl, rfl⟩

/-- The parts of R145's trace. -/
theorem frameTrace_eq (cfg : Config) (v prev : Lines) (k : Core) :
    frameTrace cfg v prev k = inputTrace cfg v prev ++ cpuTrace cfg ++ renderTrace cfg k ++ [Event.vsync] := by
  simp [frameTrace, inputTrace, cpuTrace, renderTrace]

/-- The commands of a frame's INPUT and CPU. -/
def cmdsBeforeRender (cfg : Config) (v prev : Lines) : List CoreCmd :=
  coreCmds (inputTrace cfg v prev ++ cpuTrace cfg)

/-- A frame's commands end with RENDER's `read_display()`. -/
theorem frameCmds_eq (cfg : Config) (v prev : Lines) :
    frameCmds cfg v prev = cmdsBeforeRender cfg v prev ++ [CoreCmd.readDisplay] := by
  have hsample (es : List Event) : coreCmds (.sample v :: es) = coreCmds es := rfl
  have htick : coreCmds [Event.core .tickTimers] = [.tickTimers] := rfl
  simp [frameCmds, cmdsBeforeRender, inputTrace, cpuTrace, hsample, htick]

theorem coreCmds_renderTrace (cfg : Config) (k : Core) : coreCmds (renderTrace cfg k) = [.readDisplay] := by
  have hopen : coreCmds [Event.core .readDisplay, Event.draw (.clear .bg)] = [.readDisplay] := rfl
  have hpresent : coreCmds [Event.draw .present] = [] := rfl
  rw [renderTrace, coreCmds_append, coreCmds_append, coreCmds_map_draw, hopen, hpresent]
  rfl

/-- Whatever core is rendered, the commands among a frame's events are the frame's. -/
theorem coreCmds_frameTrace (cfg : Config) (v prev : Lines) (k : Core) :
    coreCmds (frameTrace cfg v prev k) = frameCmds cfg v prev := by
  have hvsync : coreCmds [.vsync] = [] := rfl
  rw [frameTrace_eq, coreCmds_append, coreCmds_append, coreCmds_renderTrace, hvsync, List.append_nil, frameCmds_eq,
    cmdsBeforeRender]

/-- The core whose display a frame renders is the one it leaves: `read_display()` and the draws do not move it. -/
theorem Core.after_frameCmds (cfg : Config) (v prev : Lines) (k : Core) :
    k.after cfg (frameCmds cfg v prev) = k.after cfg (cmdsBeforeRender cfg v prev) := by
  rw [frameCmds_eq, Core.after_append]
  exact Core.apply_readDisplay cfg _

theorem passes_frame {s : State} (hp : s.phase = .sample)
    (hv : (s.host.after (frameLength s.cfg - 1)).now.vsync = true) :
    Passes (macroFrame s.cfg)
      (frameTrace s.cfg s.hostKeys s.prev (s.core.after s.cfg (frameCmds s.cfg s.hostKeys s.prev))) s
      fun t => t.phase = .sample ∧ t.prev = s.hostKeys := by
  rw [macroFrame, frameTrace_eq, Core.after_frameCmds]
  have hcpu : Passes (macroInput ++ macroCpu s.cfg)
      (inputTrace s.cfg s.hostKeys s.prev ++ cpuTrace s.cfg) s fun t => t.phase = .rclear ∧ t.prev = s.hostKeys := by
    refine (passes_input hp).append fun t ht => ?_
    rintro ⟨htp, htprev, htcount⟩
    have hrest := passes_cpu ht.inv.inRange.ready.1 htp htcount
    rwa [ht.cfg, htprev] at hrest
  refine (hcpu.append (ops' := macroRender s.cfg) (R := fun t => t.phase = .sync ∧ t.prev = s.hostKeys)
    fun t ht => ?_).append fun t ht => ?_
  · rintro ⟨htp, htprev⟩
    obtain ⟨hwf, hfits, -⟩ := ht.inv.inRange.ready
    have hrest := passes_render hwf hfits htp
    rwa [ht.cfg, ht.core, htprev] at hrest
  · rintro ⟨htp, htprev⟩
    have hlength : (macroInput ++ macroCpu s.cfg ++ macroRender s.cfg).length = frameLength s.cfg - 1 := by
      rw [← length_macroFrame, macroFrame, List.length_append (bs := [Instr.sync])]
      rfl
    have hrest := passes_sync htp (by rwa [ht.host, hlength])
    rwa [htprev] at hrest

/-- Settles O27: `passes_frame`, whose run is that of `Ran`, under the hypotheses that nothing disturbs it. -/
theorem frameCompletesWithItsTrace : Obligations.FrameCompletesWithItsTrace := by
  unfold Obligations.FrameCompletesWithItsTrace
  intro s hinv hp hfly hcore hhost hv
  rw [← length_macroFrame] at hhost
  rw [← coreCmds_frameTrace _ _ _ (s.core.after s.cfg (frameCmds s.cfg s.hostKeys s.prev))] at hcore
  obtain ⟨t, ht, htp, htprev⟩ := passes_frame hp hv hinv hfly hhost hcore
  have htcore := ht.core
  rw [coreCmds_frameTrace] at htcore
  rw [← length_macroFrame]
  exact ⟨t, ht.run, htp, ht.inFlight, ht.inv, htprev, htcore, by rw [htcore]; exact ht.trace, ht.performs⟩

end Sys2Proof.Machine
end
